-- ==== Sys2Proof/Word.lean ====
section
/-! DEFINITION. The words of the CORE: the command word, the byte of the buffer and the grayscale value. -/

namespace Sys2Proof

/-- One command word, presented on the port `CMD[31:0]`; it is never stored in memory (R60). -/
abbrev Word := BitVec 32

/-- One byte of the buffer, the addressable unit (R15, R40). -/
abbrev Byte := BitVec 8

/-- A GrayscaleValue: an unsigned value of 12 bits (R41, R61). -/
abbrev Gray := BitVec 12

end Sys2Proof
end

