-- ==== Sys2Proof/Syntax.lean ====
section
/-! DEFINITION. The commands of the CORE, one constructor per row of the opcode table (R62, R65). -/

namespace Sys2Proof

/-- A command. Row and channel are plain indexes (R63: "unsigned natural with no scaling"); the value is the 12-bit
field itself, so an out-of-range value cannot be written (R63). -/
inductive Instr where
  /-- `NOP`, R81. -/
  | nop
  /-- `CLEAR_ALL`, R82. -/
  | clearAll
  /-- `CLEAR_ROW r`, R83. -/
  | clearRow (row : Nat)
  /-- `GET r, c`, R84. -/
  | get (row channel : Nat)
  /-- `SET r, c, v`, R85. -/
  | set (row channel : Nat) (value : Gray)
  /-- `SET_ROW r, v`, R86. -/
  | setRow (row : Nat) (value : Gray)
  /-- `SET_ALL v`, R87. -/
  | setAll (value : Gray)
  /-- `INIT`, R88. -/
  | init
  /-- `INITV v`, R89. -/
  | initv (value : Gray)
  /-- `START`, R112. -/
  | start
  /-- `STOP`, R113. -/
  | stop
  /-- `EVT_OFF`, R131. -/
  | evtOff
  /-- `EVT_ON`, R132. -/
  | evtOn
  /-- Reserved `OP = 0xD`, R65. -/
  | reservedD
  /-- Reserved `OP = 0xE`, R65. -/
  | reservedE
  /-- Reserved `OP = 0xF`, R65. -/
  | reservedF
deriving DecidableEq, Repr

end Sys2Proof
end

