-- ==== Sys2Proof/WellFormed.lean ====
section
/-! DEFINITION. Which commands have a command word: the row and the channel must fit their 8-bit fields (R61). -/

namespace Sys2Proof

/-- `i` can be written as a command word. The value operand is a 12-bit field by its type and always fits. -/
def wellFormed : Instr → Bool
  | .clearRow r => decide (r < 256)
  | .get r c => decide (r < 256) && decide (c < 256)
  | .set r c _ => decide (r < 256) && decide (c < 256)
  | .setRow r _ => decide (r < 256)
  | .nop | .clearAll | .setAll _ | .init | .initv _ | .start | .stop | .evtOff | .evtOn => true
  | .reservedD | .reservedE | .reservedF => true

/-- `wellFormed` as the hypothesis of a statement. -/
abbrev WellFormed (i : Instr) : Prop := wellFormed i = true

end Sys2Proof
end

