-- ==== Sys2Proof/Decode.lean ====
section
/-! DEFINITION. Decoding and encoding of command words (R60 to R66): the fields of format C, the decoder, total on
every word and rejecting by name what is no word, and the encoder written from the same table. -/

namespace Sys2Proof

/-- `OP = CMD[31:28]` (R61). -/
def opField (w : Word) : BitVec 4 := w.extractLsb' 28 4

/-- `ROW = CMD[27:20]` as an unsigned natural (R61, R63). -/
def rowField (w : Word) : Nat := (w.extractLsb' 20 8).toNat

/-- `CHANNEL = CMD[19:12]` as an unsigned natural (R61, R63). -/
def channelField (w : Word) : Nat := (w.extractLsb' 12 8).toNat

/-- `VALUE = CMD[11:0]` (R61, R63). -/
def valueField (w : Word) : Gray := w.extractLsb' 0 12

/-- The opcode map (R62) applied to the four fields: `op` alone selects the command, fields the command does not
use are ignored (R64), and the three reserved opcodes give commands of their own, never a neighbour (R65). The last
arm has no case: `op` has four bits. -/
def commandOf (op : BitVec 4) (r c : Nat) (v : Gray) : Instr :=
  match op.toNat, op.isLt with
  | 0x0, _ => .nop
  | 0x1, _ => .clearAll
  | 0x2, _ => .clearRow r
  | 0x3, _ => .get r c
  | 0x4, _ => .set r c v
  | 0x5, _ => .setRow r v
  | 0x6, _ => .setAll v
  | 0x7, _ => .init
  | 0x8, _ => .initv v
  | 0x9, _ => .start
  | 0xA, _ => .stop
  | 0xB, _ => .evtOff
  | 0xC, _ => .evtOn
  | 0xD, _ => .reservedD
  | 0xE, _ => .reservedE
  | 0xF, _ => .reservedF
  | n + 0x10, h => absurd h (Nat.not_lt.mpr (Nat.le_add_left 16 n))

/-- The command a word stands for. Every word has one. -/
def decodeWord (w : Word) : Instr := commandOf (opField w) (rowField w) (channelField w) (valueField w)

/-- Why a bit string is no command word. -/
inductive DecodeError where
  /-- It does not fit the 32 lines of `CMD`: there is one length only (R60, R66). -/
  | widerThanWord
deriving DecidableEq, Repr

/-- Decode a bit string given as `nbits` bits of the number `w`; bits from `nbits` up are 0. -/
def decode (nbits w : Nat) : Except DecodeError Instr :=
  if 32 < nbits ∨ 2 ^ 32 ≤ w then .error .widerThanWord else .ok (decodeWord (BitVec.ofNat 32 (w % 2 ^ nbits)))

/-- The decoder over the opcode table's own bit numbering: bit 0 is the least significant bit of the command word. -/
def decodeTableWord (nbits w : Nat) : Option Instr := (decode nbits w).toOption

/-- The `OP` value of a command (R62, R65). -/
def opcodeOf : Instr → BitVec 4
  | .nop => 0x0#4
  | .clearAll => 0x1#4
  | .clearRow _ => 0x2#4
  | .get _ _ => 0x3#4
  | .set _ _ _ => 0x4#4
  | .setRow _ _ => 0x5#4
  | .setAll _ => 0x6#4
  | .init => 0x7#4
  | .initv _ => 0x8#4
  | .start => 0x9#4
  | .stop => 0xA#4
  | .evtOff => 0xB#4
  | .evtOn => 0xC#4
  | .reservedD => 0xD#4
  | .reservedE => 0xE#4
  | .reservedF => 0xF#4

/-- Format C: the four fields side by side, `OP` most significant (R61). -/
def formatC (op : BitVec 4) (r c : Nat) (v : Gray) : Word := op ++ BitVec.ofNat 8 r ++ BitVec.ofNat 8 c ++ v

/-- The command word of a command, unused fields written as zero as an assembler does (R64, R67). -/
def encode : Instr → Word
  | .nop => formatC 0x0#4 0 0 0#12
  | .clearAll => formatC 0x1#4 0 0 0#12
  | .clearRow r => formatC 0x2#4 r 0 0#12
  | .get r c => formatC 0x3#4 r c 0#12
  | .set r c v => formatC 0x4#4 r c v
  | .setRow r v => formatC 0x5#4 r 0 v
  | .setAll v => formatC 0x6#4 0 0 v
  | .init => formatC 0x7#4 0 0 0#12
  | .initv v => formatC 0x8#4 0 0 v
  | .start => formatC 0x9#4 0 0 0#12
  | .stop => formatC 0xA#4 0 0 0#12
  | .evtOff => formatC 0xB#4 0 0 0#12
  | .evtOn => formatC 0xC#4 0 0 0#12
  | .reservedD => formatC 0xD#4 0 0 0#12
  | .reservedE => formatC 0xE#4 0 0 0#12
  | .reservedF => formatC 0xF#4 0 0 0#12

/-- The bits of a word that its command reads: `OP`, and each field in R62's column "operands used". -/
def usedMask (w : Word) : Word :=
  match decodeWord w with
  | .clearRow _ => 0xFFF00000#32
  | .get _ _ => 0xFFFFF000#32
  | .set _ _ _ => 0xFFFFFFFF#32
  | .setRow _ _ => 0xFFF00FFF#32
  | .setAll _ | .initv _ => 0xF0000FFF#32
  | .nop | .clearAll | .init | .start | .stop | .evtOff | .evtOn => 0xF0000000#32
  | .reservedD | .reservedE | .reservedF => 0xF0000000#32

end Sys2Proof
end

