-- ==== Sys2Proof/Config.lean ====
section
/-! DEFINITION. The implementation parameters of R6 as one record, the one value the spec leaves open about the
buffer's power-up contents, and the configuration State.reset is built with. What is computed from the parameters
(R7, R8) is in Machine/Params.lean. -/

namespace Sys2Proof

/-- The record `Cfg` of R6: compile-time parameters of the machine, none writable at run time. -/
structure Cfg where
  /-- `ROW_COUNT`: the number of rows. -/
  rowCount : Nat
  /-- `CHIPS_PER_ROW`: chips chained in one row. -/
  chipsPerRow : Nat
  /-- `P_BLANK`: period of the blank/latch train, in ticks. -/
  pBlank : Nat
  /-- `BLANK_DUTY`: length of the blank-asserted window. -/
  blankDuty : Nat
  /-- `LATCH_DUTY`: length of the latch pulse. -/
  latchDuty : Nat
  /-- `LATCH_START`: phase at which the latch pulse asserts. -/
  latchStart : Nat
  /-- `EVENT_PHASE`: phase at which the cycle-boundary event fires. -/
  eventPhase : Nat
  /-- `P_GSCLK`: period of the grayscale clock train. -/
  pGsclk : Nat
deriving DecidableEq, Repr

namespace Config

/-- What a byte of the buffer that nothing has written reads as. DESIGN CHOICE (log entry 3), unsafe: R32 and R182
leave it unspecified, "any value", and forbid assuming zero; 0xA5 is the instance `95_test_vectors.md` 2.2 works
out. Any other contents is a state whose `buf` lists it. -/
def unwrittenByte : Byte := 0xA5#8

/-- Configuration T of `95_test_vectors.md` section 0. DESIGN CHOICE (log entry 2): the spec gives no values. -/
def configurationT : Cfg :=
  { rowCount := 2, chipsPerRow := 1, pBlank := 600, blankDuty := 4, latchDuty := 1, latchStart := 3, eventPhase := 4,
    pGsclk := 2 }

end Config

end Sys2Proof
end

