-- ==== Sys2Proof/Machine/Params.lean ====
section
/-! DEFINITION. What the spec computes from the parameters: the derived constants of R7, the validity of a
configuration (R8), the default phases (R6), and the slack of R186. -/

namespace Sys2Proof

/-- `ceil(log2 n)` for `n >= 1`. -/
def clog2 (n : Nat) : Nat := if n ≤ 1 then 0 else Nat.log2 (n - 1) + 1

/-- `N_CH`: channels per row (R7). -/
def Cfg.nCh (c : Cfg) : Nat := 16 * c.chipsPerRow

/-- `ROW_BYTES` (R7). -/
def Cfg.rowBytes (c : Cfg) : Nat := 24 * c.chipsPerRow

/-- `ROW_BITS` (R7). -/
def Cfg.rowBits (c : Cfg) : Nat := 8 * c.rowBytes

/-- `TICKS_PER_BIT` (R7). -/
def ticksPerBit : Nat := 3

/-- `SHIFT_TICKS` (R7). -/
def Cfg.shiftTicks (c : Cfg) : Nat := ticksPerBit * c.rowBits

/-- `ROW_W`: width of the row-address bus (R7). -/
def Cfg.rowW (c : Cfg) : Nat := max 1 (clog2 c.rowCount)

/-- Width of `bl_phase` (R17, R171). -/
def Cfg.blPhaseW (c : Cfg) : Nat := clog2 c.pBlank

/-- Width of `gs_phase` (R18, R171). -/
def Cfg.gsPhaseW (c : Cfg) : Nat := clog2 c.pGsclk

/-- The first phase after the latch pulse (R115). -/
def Cfg.latchEnd (c : Cfg) : Nat := c.latchStart + c.latchDuty

/-- `ceil(P_GSCLK / 2)`: the phase at which `GSCLK` rises (R117). -/
def Cfg.gsHalf (c : Cfg) : Nat := (c.pGsclk + 1) / 2

/-- The display refresh period in ticks: the refresh rate is "gsclk_frequency / 4096" (R119), a figure about the
chips that no rule of the machine reads. -/
def Cfg.refreshTicks (c : Cfg) : Nat := 4096 * c.pGsclk

/-- `ConfigValid(Cfg)`, items (a) to (f) of R8; (f) is written without subtraction. -/
abbrev Cfg.Valid (c : Cfg) : Prop :=
  (1 ≤ c.rowCount ∧ c.rowCount ≤ 256 ∧ 1 ≤ c.chipsPerRow ∧ c.chipsPerRow ≤ 16) ∧
  (1 ≤ c.latchDuty ∧ c.latchDuty < c.blankDuty ∧ c.blankDuty < c.pBlank) ∧
  (1 ≤ c.latchStart ∧ c.latchEnd ≤ c.blankDuty) ∧
  (c.latchEnd ≤ c.eventPhase ∧ c.eventPhase ≤ c.blankDuty) ∧
  2 ≤ c.pGsclk ∧
  c.shiftTicks + 1 + c.eventPhase ≤ c.pBlank + c.latchStart

/-- `SLACK` (R186). -/
def Cfg.slack (c : Cfg) : Nat := c.pBlank + c.latchStart - c.eventPhase - c.shiftTicks - 1

/-- A configuration with the default `LATCH_START` and `EVENT_PHASE` of R6. -/
def Cfg.withDefaults (rowCount chipsPerRow pBlank blankDuty latchDuty pGsclk : Nat) : Cfg :=
  { rowCount, chipsPerRow, pBlank, blankDuty, latchDuty, pGsclk, latchStart := blankDuty - latchDuty,
    eventPhase := blankDuty }

end Sys2Proof
end

