-- ==== Sys2Proof/Machine/State.lean ====
section
/-! DEFINITION. The state of the CORE as plain data (R15 to R26), the input ports the host drives (R13), the state
after reset (R32), and the reasons a step can stop (R160 to R165). -/

namespace Sys2Proof.Machine

/-- The buffer as (key, byte) pairs: keys strictly rising, no entry equal to what an unlisted key reads as. The key
of byte `i` of row `r` is `rowKey r i` of Machine/Ops.lean. -/
abbrev Memory := List Host.Cell

/-- `seq_state` (R21). -/
inductive SeqState where
  | idle
  | busy
deriving DecidableEq, Repr

/-- `sub`: the third of the bit cell (R24); `SubTick.num` of Machine/Ops.lean gives the spec's number. -/
inductive SubTick where
  /-- 0: data set up, clock low. -/
  | setUp
  /-- 1: clock high. -/
  | high
  /-- 2: clock low again. -/
  | low
deriving DecidableEq, Repr

/-- The input ports sampled in one tick (R13). `CLK` is the step itself. -/
structure InPorts where
  /-- `RST`. -/
  rst : Bool
  /-- `CMD_VALID`. -/
  cmdValid : Bool
  /-- `CMD`, ignored when `CMD_VALID = 0`. -/
  cmd : Word
deriving DecidableEq, Repr

/-- A tick in which the host presents nothing. -/
def InPorts.idle : InPorts := { rst := false, cmdValid := false, cmd := 0#32 }

/-- The state. The fields from `buf` to `rvalid` are the spec's; `cfg`, `port`, `script` and `tick` are the
model's own (log entries 1, 4 and 9). -/
structure State where
  /-- The parameter record `Cfg` of `step` (R6, R33 a); no step changes it. -/
  cfg : Cfg
  /-- `buf`, the RowSet (R15). -/
  buf : Memory
  /-- `run` (R16). -/
  run : Bool
  /-- `bl_phase` (R17). -/
  blPhase : Nat
  /-- `gs_phase` (R18). -/
  gsPhase : Nat
  /-- `evt_en` (R19). -/
  evtEn : Bool
  /-- `evt_pend` (R20). -/
  evtPend : Bool
  /-- `seq_state` (R21). -/
  seqState : SeqState
  /-- `next_row` (R22). -/
  nextRow : Nat
  /-- `rowaddr` (R23). -/
  rowaddr : Nat
  /-- `byte_idx` (R24). -/
  byteIdx : Nat
  /-- `bit_idx` (R24). -/
  bitIdx : Fin 8
  /-- `sub` (R24). -/
  sub : SubTick
  /-- `sin` (R25). -/
  sin : Bool
  /-- `sclk` (R25). -/
  sclk : Bool
  /-- `rdata` (R26). -/
  rdata : Gray
  /-- `rvalid` (R26). -/
  rvalid : Bool
  /-- The input ports in this tick (R13). -/
  port : InPorts
  /-- The input ports in the ticks to come, the next tick's first; when it runs out the host presents nothing. -/
  script : List InPorts
  /-- The number of this tick, which a fault record names (R160, R165). -/
  tick : Nat
deriving DecidableEq, Repr

/-- The state in the first tick after reset (R32) of a machine with configuration `c` whose buffer holds `b`: any
contents, since reset leaves `buf` unspecified (R182). -/
def State.powerUp (c : Cfg) (b : Memory) : State :=
  { cfg := c, buf := b, run := false, blPhase := 0, gsPhase := 0, evtEn := true, evtPend := false, seqState := .idle,
    nextRow := 0, rowaddr := 0, byteIdx := 0, bitIdx := 7, sub := .setUp, sin := false, sclk := false, rdata := 0#12,
    rvalid := false, port := InPorts.idle, script := [], tick := 0 }

/-- The machine right after reset (R32). Its configuration is configuration T of `95_test_vectors.md` (DESIGN
CHOICE, log entry 2) and nothing is listed in its buffer (DESIGN CHOICE, log entry 3). -/
def State.reset : State := State.powerUp Config.configurationT []

/-- Which index broke its range (R80). -/
inductive RangeKind where
  | row
  | channel
deriving DecidableEq, Repr

/-- Which timing rule was broken (R163). -/
inductive TimingKind where
  /-- A latch pulse overlaps a shift. -/
  | tornLatch
  /-- A boundary fires while an earlier event is pending or its shift is running. -/
  | missedBoundary
deriving DecidableEq, Repr

/-- The run-time faults of R165, each holding the record `(F, info, tick)` of R160: what R165 lists for it, and the
number of the tick it was raised in (`State.tick`; the count itself is the model's, log entry 9). Each is safe: the
machine stops and nothing is claimed afterwards (R160). -/
inductive Fault where
  /-- An accepted `CLEAR_ROW`, `GET`, `SET` or `SET_ROW` with an index out of range (R80, R161); raised by those
  commands before any effect; records the command word and the tick. Safe. -/
  | preconditionViolation (kind : RangeKind) (word : Word) (tick : Nat)
  /-- An accepted command with `OP` 0xD, 0xE or 0xF (R65, R162); raised by the three reserved commands; records the
  opcode, the command word and the tick. Safe. -/
  | reservedCommand (op : BitVec 4) (word : Word) (tick : Nat)
  /-- `XLAT` during a shift, or a boundary event that finds another one unfinished (R163); raised by any tick;
  records the tick, which is its info too. Safe. -/
  | timingViolation (kind : TimingKind) (tick : Nat)
deriving DecidableEq, Repr

/-- Why there is no next state at all. -/
inductive Refusal where
  /-- The command has no meaning yet; answered by `exec`'s arm only. Safe. -/
  | notModelled (mnemonic : String)
  /-- `ConfigViolation` (R8, R164): no machine exists with this configuration; answered by `build` and by every
  step. Safe. -/
  | configViolation (cfg : Cfg)
deriving DecidableEq, Repr

end Sys2Proof.Machine
end

