-- ==== Sys2Proof/Machine/Flags.lean ====
section
/-! DEFINITION. The CORE has no flags or condition codes (R28). What its rules test instead are the combinational
signals of one tick, all functions of the state at its start (R31), the line levels of the pulse generator
(R114, R115, R117), and the fault conditions (R163). -/

namespace Sys2Proof.Machine

/-- `BLANK` (R114). -/
def State.blank (s : State) : Bool := decide (s.blPhase < s.cfg.blankDuty)

/-- `XLAT` (R115). -/
def State.xlat (s : State) : Bool := decide (s.cfg.latchStart ≤ s.blPhase) && decide (s.blPhase < s.cfg.latchEnd)

/-- `GSCLK` (R117). -/
def State.gsclk (s : State) : Bool := decide (s.cfg.gsHalf ≤ s.gsPhase)

/-- `seq_state = BUSY`. -/
def State.busy (s : State) : Bool := decide (s.seqState = .busy)

/-- `evt_fire` (R118). -/
def State.evtFire (s : State) : Bool := s.run && decide (s.blPhase = s.cfg.eventPhase)

/-- `evt_req` (R31). -/
def State.evtReq (s : State) : Bool := s.evtPend || s.evtFire

/-- `accept` (R31, R134). -/
def State.accept (s : State) : Bool := s.evtReq && s.evtEn && !s.busy

/-- `cmd_ready`, the port `CMD_READY` (R31). -/
def State.cmdReady (s : State) : Bool := !s.busy && !s.accept

/-- `cmd_taken` (R31): the one signal that also reads an input. -/
def State.cmdTaken (s : State) : Bool := s.port.cmdValid && s.cmdReady

/-- The fault conditions of R163, `TornLatch` before `MissedBoundary` (R167). -/
def State.timingFault (s : State) : Option TimingKind :=
  if s.xlat && s.busy then some .tornLatch
  else if s.evtFire && (s.evtPend || s.busy) then some .missedBoundary
  else none

end Sys2Proof.Machine
end

