-- ==== Sys2Proof/Machine/Ops.lean ====
section
/-! DEFINITION. The shared operations: the buffer as memory (R9, R40), the bulk stores, the range check every
indexed command makes first (R80), the acceptance of the cycle-boundary event and the return from it (R135, R136,
R139, R168, R169), and reset (R32). -/

namespace Sys2Proof.Machine

/-! ### The buffer -/

/-- How far apart the keys of two rows lie. Larger than any row, so that rows are not adjacent: rows are separate
arrays and no access crosses from one into another (R40; log entry 5). -/
def rowStride : Nat := 512

/-- The memory key of `buf[r][i]`. -/
def rowKey (r i : Nat) : Nat := rowStride * r + i

/-- The canonical form of a buffer. -/
abbrev Memory.wf (m : Memory) : Prop :=
  m.Pairwise (fun x y => x.1 < y.1) ∧ ∀ x ∈ m, x.2 ≠ Config.unwrittenByte

/-- Every listed byte exists: it lies in some row of the RowSet (R40). -/
abbrev Memory.inRowSet (c : Cfg) (m : Memory) : Prop :=
  ∀ x ∈ m, x.1 / rowStride < c.rowCount ∧ x.1 % rowStride < c.rowBytes

/-- The byte at a key. -/
def Memory.read : Memory → Nat → Byte
  | [], _ => Config.unwrittenByte
  | (b, w) :: rest, a => if a = b then w else Memory.read rest a

/-- Store one byte, keeping the canonical form. -/
def Memory.write : Memory → Nat → Byte → Memory
  | [], a, v => if v = Config.unwrittenByte then [] else [(a, v)]
  | (b, w) :: rest, a, v =>
    if a < b then if v = Config.unwrittenByte then (b, w) :: rest else (a, v) :: (b, w) :: rest
    else if a = b then if v = Config.unwrittenByte then rest else (a, v) :: rest
    else (b, w) :: Memory.write rest a v

/-- `MemRead(r, i, 1)` (R9). -/
def memRead1 (m : Memory) (r i : Nat) : Byte := m.read (rowKey r i)

/-- `MemRead(r, i, 2)`: byte `i` is the more significant (R9, R45). -/
def memRead2 (m : Memory) (r i : Nat) : BitVec 16 := memRead1 m r i ++ memRead1 m r (i + 1)

/-- `MemWrite(r, i, 1, v)` (R9). -/
def memWrite1 (m : Memory) (r i : Nat) (v : Byte) : Memory := m.write (rowKey r i) v

/-- `MemWrite(r, i, 2, v)`, in the same order as `MemRead` (R9). -/
def memWrite2 (m : Memory) (r i : Nat) (v : BitVec 16) : Memory :=
  memWrite1 (memWrite1 m r i (v.extractLsb' 8 8)) r (i + 1) (v.extractLsb' 0 8)

/-- Bit `b` of `buf[r][i]`. -/
def memBit (m : Memory) (r i b : Nat) : Bool := (memRead1 m r i).getLsbD b

/-- Store `f i` at byte `i` of row `r`, for every `i < n`. -/
def fillRow (m : Memory) (r : Nat) (f : Nat → Byte) : Nat → Memory
  | 0 => m
  | n + 1 => memWrite1 (fillRow m r f n) r n (f n)

/-- Fill the first `bytes` bytes of every row below `rows`. -/
def fillRows (m : Memory) (f : Nat → Byte) (bytes : Nat) : Nat → Memory
  | 0 => m
  | rows + 1 => fillRow (fillRows m f bytes rows) rows f bytes

/-! ### Completion and the range check -/

/-- A command other than `GET` leaves `rvalid = 0` (R30 step 3). -/
def State.dropRvalid (s : State) : State := { s with rvalid := false }

/-- The range preconditions of a command that uses `ROW` and, where `c?` is given, `CHANNEL`: row first (R80, R161).
The record holds the word on the command port and the tick (R160). -/
def State.rangeFault (s : State) (r : Nat) (c? : Option Nat) : Option Fault :=
  if s.cfg.rowCount ≤ r then some (.preconditionViolation .row s.port.cmd s.tick)
  else match c? with
    | none => none
    | some c => if s.cfg.nCh ≤ c then some (.preconditionViolation .channel s.port.cmd s.tick) else none

/-! ### The cycle-boundary event: entry and return -/

/-- The spec's number of a third of the bit cell (R24). -/
def SubTick.num : SubTick → Nat
  | .setUp => 0
  | .high => 1
  | .low => 2

/-- `pos`, the single counter equivalent to the sequencer position (R24). -/
def State.shiftPos (s : State) : Nat := (8 * s.byteIdx + (7 - s.bitIdx.val)) * 3 + s.sub.num

/-- Entry: the row is selected (R135) and its first bit set up (R136). Nothing is saved, no mode changes and there is
no vector (R168). -/
def State.takeEvent (s : State) : State :=
  { s with
    rowaddr := s.nextRow
    nextRow := (s.nextRow + 1) % s.cfg.rowCount
    seqState := .busy
    byteIdx := 0
    bitIdx := 7
    sub := .setUp
    sin := memBit s.buf s.nextRow 0 7
    sclk := false }

/-- Return: the execution ends by itself, nothing is restored, and `sin`, `sclk`, `rowaddr` keep their values
(R139, R169). -/
def State.endShift (s : State) : State :=
  { s with seqState := .idle, byteIdx := 0, bitIdx := 7, sub := .setUp }

/-! ### Reset and the input ports -/

/-- A tick with `RST = 1`: the reset state with `buf` unchanged (R30, R32, R180). -/
def State.applyReset (s : State) : State :=
  { State.powerUp s.cfg s.buf with port := s.port, script := s.script, tick := s.tick }

/-- The next tick begins: the host's next input ports are on the pins. -/
def State.advancePort (s : State) : State :=
  { s with port := s.script.headD InPorts.idle, script := s.script.tail, tick := s.tick + 1 }

/-- The host presents a command word in this tick. -/
def State.present (s : State) (w : Word) : State :=
  { s with port := { rst := false, cmdValid := true, cmd := w } }

/-- Configuration time: a machine is built from a valid configuration and from no other (R8, R164). -/
def build (c : Cfg) (b : Memory) : Host.Outcome State Fault Refusal :=
  if c.Valid then .next (State.powerUp c b) else .refused (.configViolation c)

end Sys2Proof.Machine
end

