-- ==== Sys2Proof/Machine/Operands.lean ====
section
/-! DEFINITION. The one addressing mode of the CORE, the pair (row, channel) (R42, R72), the two alignments of a
channel inside its bytes (R46), and the three-byte pattern of the bulk stores (R86). -/

namespace Sys2Proof.Machine

/-- `idx = (N_CH - 1) - c`: channels are packed in descending order (R42). -/
def chanIdx (c : Cfg) (ch : Nat) : Nat := c.nCh - 1 - ch

/-- `bytePos = (idx * 3) >> 1` (R42); `v >> n` is `v div 2^n` (R9). -/
def bytePos (c : Cfg) (ch : Nat) : Nat := chanIdx c ch * 3 / 2

/-- The channel's 12 bits begin mid-byte (R42). -/
def midByte (c : Cfg) (ch : Nat) : Bool := decide (chanIdx c ch % 2 = 1)

/-- The value inside its 16-bit window: `w[11:0]` when the channel begins mid-byte, `w[15:4]` when it is
byte-aligned (R45, R84). -/
def windowValue (mid : Bool) (w : BitVec 16) : Gray := if mid then w.extractLsb' 0 12 else w.extractLsb' 4 12

/-- The window with the value put in and the neighbour's nibble kept: `{w[15:12], v}` or `{v, w[3:0]}` (R85). -/
def windowInsert (mid : Bool) (w : BitVec 16) (v : Gray) : BitVec 16 :=
  if mid then w.extractLsb' 12 4 ++ v else v ++ w.extractLsb' 0 4

/-- The value of channel `ch` of row `r`. -/
def readChannel (c : Cfg) (m : Memory) (r ch : Nat) : Gray :=
  windowValue (midByte c ch) (memRead2 m r (bytePos c ch))

/-- Put `v` into channel `ch` of row `r`; exactly its 12 bits change (R47, R53, R85). -/
def writeChannel (c : Cfg) (m : Memory) (r ch : Nat) (v : Gray) : Memory :=
  memWrite2 m r (bytePos c ch) (windowInsert (midByte c ch) (memRead2 m r (bytePos c ch)) v)

/-- Byte `i` of a row filled with `v`: the pattern `p0 p1 p2` repeated (R86). -/
def patternByte (v : Gray) (i : Nat) : Byte :=
  match i % 3 with
  | 0 => v.extractLsb' 4 8
  | 1 => v.extractLsb' 0 4 ++ v.extractLsb' 8 4
  | _ => v.extractLsb' 0 8

/-- One row filled with `v` (R86). -/
def patternRow (c : Cfg) (m : Memory) (r : Nat) (v : Gray) : Memory := fillRow m r (patternByte v) c.rowBytes

/-- Every row filled with `v` (R87). -/
def patternAll (c : Cfg) (m : Memory) (v : Gray) : Memory := fillRows m (patternByte v) c.rowBytes c.rowCount

/-- One row of zero bytes (R83). -/
def zeroRow (c : Cfg) (m : Memory) (r : Nat) : Memory := fillRow m r (fun _ => 0x00#8) c.rowBytes

/-- Every row zero (R82). -/
def zeroAll (c : Cfg) (m : Memory) : Memory := fillRows m (fun _ => 0x00#8) c.rowBytes c.rowCount

/-- The chip of a row that shows channel `ch` (R41, R150). -/
def chipOf (ch : Nat) : Nat := ch / 16

/-- The output pin of that chip (R41, R150). -/
def pinOf (ch : Nat) : Nat := ch % 16

/-- Bit `n` of the bit string of row `r`, byte 0 first and each byte from bit 7 down (R43). -/
def rowBit (m : Memory) (r n : Nat) : Bool := memBit m r (n / 8) (7 - n % 8)

end Sys2Proof.Machine
end

