-- ==== Sys2Proof/Machine/GrayscaleBuffer.lean ====
section
/-! DEFINITION. The GrayscaleBuffer commands (R80 to R89): what each does to the state in the tick it is accepted. -/

namespace Sys2Proof.Machine

/-- `NOP` (R81). -/
def execNop (s : State) : Host.Outcome State Fault Refusal := .next s.dropRvalid

/-- `CLEAR_ALL` (R82). -/
def execClearAll (s : State) : Host.Outcome State Fault Refusal :=
  .next { s.dropRvalid with buf := zeroAll s.cfg s.buf }

/-- `CLEAR_ROW r` (R83). -/
def execClearRow (r : Nat) (s : State) : Host.Outcome State Fault Refusal :=
  match s.rangeFault r none with
  | some f => .fault f
  | none => .next { s.dropRvalid with buf := zeroRow s.cfg s.buf r }

/-- `GET r, c` (R84). -/
def execGet (r c : Nat) (s : State) : Host.Outcome State Fault Refusal :=
  match s.rangeFault r (some c) with
  | some f => .fault f
  | none => .next { s with rdata := readChannel s.cfg s.buf r c, rvalid := true }

/-- `SET r, c, v` (R85). -/
def execSet (r c : Nat) (v : Gray) (s : State) : Host.Outcome State Fault Refusal :=
  match s.rangeFault r (some c) with
  | some f => .fault f
  | none => .next { s.dropRvalid with buf := writeChannel s.cfg s.buf r c v }

/-- `SET_ROW r, v` (R86). -/
def execSetRow (r : Nat) (v : Gray) (s : State) : Host.Outcome State Fault Refusal :=
  match s.rangeFault r none with
  | some f => .fault f
  | none => .next { s.dropRvalid with buf := patternRow s.cfg s.buf r v }

/-- `SET_ALL v` (R87). -/
def execSetAll (v : Gray) (s : State) : Host.Outcome State Fault Refusal :=
  .next { s.dropRvalid with buf := patternAll s.cfg s.buf v }

/-- `INIT`: exactly the effect of `CLEAR_ALL` (R88). -/
def execInit (s : State) : Host.Outcome State Fault Refusal :=
  .next { s.dropRvalid with buf := zeroAll s.cfg s.buf }

/-- `INITV v`: exactly the effect of `SET_ALL v` (R89). -/
def execInitv (v : Gray) (s : State) : Host.Outcome State Fault Refusal :=
  .next { s.dropRvalid with buf := patternAll s.cfg s.buf v }

end Sys2Proof.Machine
end

