-- ==== Sys2Proof/Machine/PulseGenerator.lean ====
section
/-! DEFINITION. The PulseGenerator: the commands `START` and `STOP` (R112, R113) and the advance of the two phase
counters (R111). -/

namespace Sys2Proof.Machine

/-- `START` (R112). -/
def execStart (s : State) : Host.Outcome State Fault Refusal := .next { s.dropRvalid with run := true }

/-- `STOP` (R113). -/
def execStop (s : State) : Host.Outcome State Fault Refusal :=
  .next { s.dropRvalid with run := false, blPhase := 0, gsPhase := 0, evtPend := false }

/-- Step 6 of the tick (R111): `run` is `run` as it was at the start of the tick, `stop` says that a `STOP` is
accepted in it. -/
def State.advanceCounters (s : State) (run stop : Bool) : State :=
  if stop then { s with blPhase := 0, gsPhase := 0 }
  else if run then
    { s with blPhase := (s.blPhase + 1) % s.cfg.pBlank, gsPhase := (s.gsPhase + 1) % s.cfg.pGsclk }
  else { s with blPhase := 0, gsPhase := 0 }

end Sys2Proof.Machine
end

