-- ==== Sys2Proof/Machine/Reserved.lean ====
section
/-! DEFINITION. The reserved opcodes: an accepted one raises `ReservedCommand(OP)` and must not act as `NOP`
(R65, R162). -/

namespace Sys2Proof.Machine

/-- `raise ReservedCommand(op)`; the record holds the word on the command port (R162) and the tick (R160). -/
def raiseReserved (op : BitVec 4) (s : State) : Host.Outcome State Fault Refusal :=
  .fault (.reservedCommand op s.port.cmd s.tick)

/-- `OP = 0xD`. -/
def execReservedD (s : State) : Host.Outcome State Fault Refusal := raiseReserved 0xD#4 s

/-- `OP = 0xE`. -/
def execReservedE (s : State) : Host.Outcome State Fault Refusal := raiseReserved 0xE#4 s

/-- `OP = 0xF`. -/
def execReservedF (s : State) : Host.Outcome State Fault Refusal := raiseReserved 0xF#4 s

end Sys2Proof.Machine
end

