-- ==== Sys2Proof/Machine/RowShift.lean ====
section
/-! DEFINITION. The RowShiftProtocol: the commands `EVT_OFF` and `EVT_ON` (R131, R132), the event bookkeeping (R133)
and the sequencer (R134 to R139). -/

namespace Sys2Proof.Machine

/-- `EVT_OFF` (R131). -/
def execEvtOff (s : State) : Host.Outcome State Fault Refusal := .next { s.dropRvalid with evtEn := false }

/-- `EVT_ON` (R132). -/
def execEvtOn (s : State) : Host.Outcome State Fault Refusal := .next { s.dropRvalid with evtEn := true }

/-- Step 4 of the tick (R133), with `evt_req` and `accept` of the start of the tick. -/
def State.bookEvent (s : State) (req acc stop : Bool) : State :=
  { s with evtPend := if stop then false else req && !acc }

/-- The bit now on `SIN` is the row's last one (R138, R139). -/
def State.atLastBit (s : State) : Bool :=
  decide (s.bitIdx.val = 0) && decide (s.byteIdx + 1 = s.cfg.rowBytes)

/-- Move to the next bit of the row, most significant first and bytes in ascending position (R138). -/
def State.nextBit (s : State) : State :=
  if 0 < s.bitIdx.val then
    { s with
      bitIdx := ⟨s.bitIdx.val - 1, Nat.lt_of_le_of_lt (Nat.sub_le _ _) s.bitIdx.isLt⟩
      sub := .setUp
      sin := memBit s.buf s.rowaddr s.byteIdx (s.bitIdx.val - 1) }
  else
    { s with
      byteIdx := s.byteIdx + 1
      bitIdx := 7
      sub := .setUp
      sin := memBit s.buf s.rowaddr (s.byteIdx + 1) 7 }

/-- One tick of a running shift (R137 to R139): set up, clock high, clock low. -/
def State.shiftTick (s : State) : State :=
  match s.sub with
  | .setUp => { s with sclk := true, sub := .high }
  | .high => { s with sclk := false, sub := .low }
  | .low => if s.atLastBit then s.endShift else s.nextBit

/-- Step 5 of the tick: an accepted event starts a shift (R135, R136), a busy sequencer advances it, an idle one
does nothing (R142). -/
def State.sequence (s : State) (acc : Bool) : State :=
  if acc then s.takeEvent
  else match s.seqState with
    | .busy => s.shiftTick
    | .idle => s

end Sys2Proof.Machine
end

