-- ==== Sys2Proof/Machine/Dispatch.lean ====
section
/-! DEFINITION. One arm per command: what an accepted command does to the state (step 3 of the tick, R30). -/

namespace Sys2Proof.Machine

def exec (i : Instr) (s : State) : Host.Outcome State Fault Refusal :=
  match i with
  | .nop => Sys2Proof.Machine.execNop s
  | .clearAll => Sys2Proof.Machine.execClearAll s
  | .clearRow r => Sys2Proof.Machine.execClearRow r s
  | .get r c => Sys2Proof.Machine.execGet r c s
  | .set r c v => Sys2Proof.Machine.execSet r c v s
  | .setRow r v => Sys2Proof.Machine.execSetRow r v s
  | .setAll v => Sys2Proof.Machine.execSetAll v s
  | .init => Sys2Proof.Machine.execInit s
  | .initv v => Sys2Proof.Machine.execInitv v s
  | .start => Sys2Proof.Machine.execStart s
  | .stop => Sys2Proof.Machine.execStop s
  | .evtOff => Sys2Proof.Machine.execEvtOff s
  | .evtOn => Sys2Proof.Machine.execEvtOn s
  | .reservedD => Sys2Proof.Machine.execReservedD s
  | .reservedE => Sys2Proof.Machine.execReservedE s
  | .reservedF => Sys2Proof.Machine.execReservedF s

end Sys2Proof.Machine
end

