-- ==== Sys2Proof/Machine/Tick.lean ====
section
/-! DEFINITION. One tick of the CORE, its rules composed in the order of R30, and how a command word is put in front
of it. -/

namespace Sys2Proof.Machine

/-- The command on the port in this tick (R13, R60). -/
def State.command (s : State) : Instr := decodeWord s.port.cmd

/-- `stop` of the rules R111 and R133: a `STOP` is accepted in this tick. -/
def State.stopTaken (s : State) : Bool := s.cmdTaken && decide (s.command = .stop)

/-- Step 3 (R30): the command if one is taken; else only `rvalid` falls (R26, log entry 8). -/
def State.commandStep (s : State) : Host.Outcome State Fault Refusal :=
  if s.cmdTaken then exec s.command s else .next s.dropRvalid

/-- Steps 4, 5 and 6 (R30) on `s1`, the state step 3 left, with the signals of `s`, the start of the tick; then the
next tick's input ports. -/
def State.finishTick (s s1 : State) : State :=
  (((s1.bookEvent s.evtReq s.accept s.stopTaken).sequence s.accept).advanceCounters s.run s.stopTaken).advancePort

/-- One tick (R30). No machine exists for an invalid configuration (R164). With `RST = 1` nothing but reset applies,
not even the fault conditions (log entry 7). -/
def clockTick (s : State) : Host.Outcome State Fault Refusal :=
  if s.cfg.Valid then
    if s.port.rst then .next s.applyReset.advancePort
    else
      match s.timingFault with
      | some k => .fault (.timingViolation k s.tick)
      | none =>
        match s.commandStep with
        | .next s1 => .next (s.finishTick s1)
        | .fault f => .fault f
        | .refused r => .refused r
  else .refused (.configViolation s.cfg)

/-- A state in which a command presented in this tick is taken: `s` itself where it is; else `s` with the sequencer
at rest and no event pending or allowed in. It serves `withFetchWord` only (log entry 11). -/
def State.readied (s : State) : State :=
  if s.cmdReady && s.timingFault.isNone then s
  else { s with seqState := .idle, byteIdx := 0, bitIdx := 7, sub := .setUp, sclk := false, evtPend := false, evtEn := false }

/-- `s` with the word of `nbits` bits on the command port of this tick. -/
def State.presentTableWord (s : State) (nbits w : Nat) : State :=
  s.readied.present (BitVec.ofNat 32 (w % 2 ^ nbits))

end Sys2Proof.Machine
end

