-- ==== Sys2Proof/Machine/Step.lean ====
section
/-! DEFINITION. One step of the machine is one tick; and where a command word is placed for the next step. -/

namespace Sys2Proof.Machine

/-- One step: one tick (R12, R30). -/
def step : State → Host.Outcome State Fault Refusal := clockTick

/-- `s` with an instruction where the next step takes its instruction from: the command port, with `CMD_VALID = 1`
and the port ready (R70; log entries 4 and 11). -/
def State.withFetchWord (s : State) (nbits w : Nat) : State := s.presentTableWord nbits w

end Sys2Proof.Machine
end

