-- ==== Sys2Proof/Machine/HostCalls.lean ====
section
/-! DEFINITION. How a host uses the command port (R69, R70, R188): it presents a word until the port takes it. A host
is outside the CORE; this is the convention the spec's listings and API calls follow. -/

namespace Sys2Proof.Machine

/-- Tick until a tick takes word `w`, at most `fuel` ticks; the answer is the state after that tick, or `none` when
the machine stopped or the fuel ran out (R69: "present until accepted"). -/
def callUntilTaken (w : Word) : Nat → State → Option State
  | 0, _ => none
  | fuel + 1, s =>
    match step (s.present w) with
    | .next t => if (s.present w).cmdTaken then some t else callUntilTaken w fuel t
    | .fault _ => none
    | .refused _ => none

/-- The API call `get(row, channel)`: the result is `RDATA` in the tick with `RVALID = 1` (R69). -/
def callGet (r c fuel : Nat) (s : State) : Option Gray :=
  match callUntilTaken (encode (.get r c)) fuel s with
  | some t => if t.rvalid then some t.rdata else none
  | none => none

end Sys2Proof.Machine
end

