-- ==== Sys2Proof/Machine/Ports.lean ====
section
/-! DEFINITION. The output ports (R14), and the wire trace computed from them (R33 e, R143): observations of the
machine that no rule of it reads. -/

namespace Sys2Proof.Machine

/-- The output ports in one tick (R14); `ROWADDR` as the number its `ROW_W` lines carry (R23, R140). -/
structure OutPorts where
  cmdReady : Bool
  rvalid : Bool
  rdata : Gray
  sin : Bool
  sclk : Bool
  rowaddr : Nat
  blank : Bool
  xlat : Bool
  gsclk : Bool
deriving DecidableEq, Repr

/-- What the ports show: a function of the state at the start of the tick (R14). -/
def State.outPorts (s : State) : OutPorts :=
  { cmdReady := s.cmdReady, rvalid := s.rvalid, rdata := s.rdata, sin := s.sin, sclk := s.sclk, rowaddr := s.rowaddr,
    blank := s.blank, xlat := s.xlat, gsclk := s.gsclk }

/-- The ports in up to `n` ticks from `s`, ending early where the machine stops. -/
def portTrace : Nat → State → List OutPorts
  | 0, _ => []
  | n + 1, s =>
    s.outPorts :: match step s with
      | .next t => portTrace n t
      | .fault _ => []
      | .refused _ => []

/-- What the chips on the far side can act on (R150): a bit clocked in, or a latch pulse. -/
inductive WireEvent where
  /-- `SCLK` rises: the bit on `SIN` and the row on `ROWADDR`. -/
  | bit (sin : Bool) (rowaddr : Nat)
  /-- `XLAT` rises: the row on `ROWADDR` is committed (R144). -/
  | latch (rowaddr : Nat)
deriving DecidableEq, Repr

/-- The rising edges between two consecutive ticks. -/
def wireEdges (p q : OutPorts) : List WireEvent :=
  (if !p.sclk && q.sclk then [.bit q.sin q.rowaddr] else []) ++ (if !p.xlat && q.xlat then [.latch q.rowaddr] else [])

/-- The wire trace of a port trace (R33 e). -/
def wireTrace : List OutPorts → List WireEvent
  | p :: q :: rest => wireEdges p q ++ wireTrace (q :: rest)
  | _ => []

/-- The bits clocked out in a wire trace, first one first. -/
def wireBits (ev : List WireEvent) : List Bool :=
  ev.filterMap fun e => match e with
    | .bit b _ => some b
    | .latch _ => none

end Sys2Proof.Machine
end

