-- ==== Sys2Proof/Safety.lean ====
section
/-! DEFINITION. What a safe run is, in the terms the statements use: several ticks, the invariant of the state, the
calm host, and the condition under which a shift ends before its latch (R146, R186). -/

namespace Sys2Proof.Machine

/-- `n` ticks from `s`, or none where the machine stops earlier. -/
def after : Nat → State → Option State
  | 0, s => some s
  | n + 1, s =>
    match step s with
    | .next t => after n t
    | .fault _ => none
    | .refused _ => none

/-- `n` ticks from `s` in each of which the host presents word `w`, or none where the machine stops earlier. -/
def afterPresenting (w : Word) : Nat → State → Option State
  | 0, s => some s
  | n + 1, s =>
    match step (s.present w) with
    | .next t => afterPresenting w n t
    | .fault _ => none
    | .refused _ => none

/-- The same fault with another command word on record; a fault that records none is itself. -/
def Fault.withWord (w : Word) : Fault → Fault
  | .preconditionViolation kind _ tick => .preconditionViolation kind w tick
  | .reservedCommand op _ tick => .reservedCommand op w tick
  | .timingViolation kind tick => .timingViolation kind tick

/-- The invariant of a machine (R15 to R25): a valid configuration, a canonical buffer inside the RowSet, every
counter in its range, the phases 0 while stopped (R111), nothing pending or shifting while stopped, and the sequencer
position and serial clock as R24, R25 and R137 say. -/
structure Inv (s : State) : Prop where
  valid : s.cfg.Valid
  bufWf : s.buf.wf
  bufInside : s.buf.inRowSet s.cfg
  blRange : s.blPhase < s.cfg.pBlank
  gsRange : s.gsPhase < s.cfg.pGsclk
  stopped : s.run = false → s.blPhase = 0 ∧ s.gsPhase = 0 ∧ s.evtPend = false ∧ s.seqState = .idle
  nextRowRange : s.nextRow < s.cfg.rowCount
  rowaddrRange : s.rowaddr < s.cfg.rowCount
  byteRange : s.byteIdx < s.cfg.rowBytes
  atRest : s.seqState = .idle → s.byteIdx = 0 ∧ s.bitIdx = 7 ∧ s.sub = .setUp ∧ s.sclk = false
  clockLine : s.seqState = .busy → (s.sclk = true ↔ s.sub = .high)
  dataLine : s.seqState = .busy → s.sin = memBit s.buf s.rowaddr s.byteIdx s.bitIdx.val
  rowOrder : s.seqState = .busy → s.nextRow = (s.rowaddr + 1) % s.cfg.rowCount

/-- Input ports that neither reset the machine, nor stop the generator, nor switch events off, nor fault: any other
command, or none. -/
def InPorts.calm (c : Cfg) (p : InPorts) : Bool :=
  !p.rst && (!p.cmdValid || match decodeWord p.cmd with
    | .nop | .clearAll | .setAll _ | .init | .initv _ | .start | .evtOn => true
    | .clearRow r | .setRow r _ => decide (r < c.rowCount)
    | .get r ch | .set r ch _ => decide (r < c.rowCount) && decide (ch < c.nCh)
    | .stop | .evtOff | .reservedD | .reservedE | .reservedF => false)

/-- Calm inputs in this tick and in every tick the script holds. -/
def State.calm (s : State) : Bool := s.port.calm s.cfg && s.script.all (InPorts.calm s.cfg)

/-- No reset in this tick or in any tick the script holds. -/
def State.noReset (s : State) : Bool := !s.port.rst && s.script.all (fun p => !p.rst)

/-- Input ports that neither reset the machine nor stop the generator. -/
def InPorts.goesOn (p : InPorts) : Bool := !p.rst && !(p.cmdValid && decide (decodeWord p.cmd = .stop))

/-- No reset and no `STOP` in this tick or in any tick the script holds. -/
def State.goesOn (s : State) : Bool := s.port.goesOn && s.script.all InPorts.goesOn

/-- The commands of `l`, one after the other, as `exec` gives them; none where one does not complete. -/
def execAll : List Instr → State → Option State
  | [], s => some s
  | i :: l, s =>
    match exec i s with
    | .next t => execAll l t
    | .fault _ => none
    | .refused _ => none

/-- A `START` is taken in this tick by a stopped machine that meets the invariant, events on, the next row the first
one. -/
structure Starting (s : State) : Prop where
  inv : Inv s
  stopped : s.run = false
  enabled : s.evtEn = true
  first : s.nextRow = 0
  taken : s.cmdTaken = true
  isStart : s.command = .start

/-- The event accepted in this tick fired `d` ticks ago: the machine meets the invariant, no fault condition holds,
and no reset comes (R146, R186). -/
structure AcceptsAfter (s : State) (d : Nat) : Prop where
  inv : Inv s
  accepts : s.accept = true
  sound : s.timingFault = none
  unreset : s.noReset = true
  delay : s.blPhase = (s.cfg.eventPhase + d) % s.cfg.pBlank

/-- The shift now running was accepted `d` ticks after its event fired: the phase has moved on from `EVENT_PHASE` by
`d`, the acceptance tick and the position (R146, R186). -/
def State.lateBy (s : State) (d : Nat) : Prop :=
  s.blPhase = (s.cfg.eventPhase + d + 1 + s.shiftPos) % s.cfg.pBlank

/-- Events on and none ever late: nothing pends, and a running shift was accepted in the tick its event fired
(R147). -/
structure OnTime (s : State) : Prop where
  enabled : s.evtEn = true
  nonePending : s.evtPend = false
  punctual : s.seqState = .busy → s.lateBy 0

end Sys2Proof.Machine
end

