-- ==== Sys2Proof/Certificates/Slice0/Obligations.lean ====
section
/-! DEFINITION. The statements for the provers. Where a statement speaks of `exec`, it is about step 3 of the tick
(R30), the command's own effect; where it speaks of `step`, about the whole tick. No statement rests on what a byte
that nothing has written reads as, and none on where the count of ticks begins: a fault record names the tick it was
raised in (R160), which is the state's field `tick` (log entry 9). -/

open Sys2Proof Sys2Proof.Machine

/-! ### Encoding -/

/-- Decode and encode agree (R61, R62): the word of every well-formed command decodes to that command, with every
operand, through the word decoder and through the table's bit numbering. -/
def Obligations.EncodedCommandDecodesToItself : Prop :=
  ∀ i : Instr, WellFormed i → decodeWord (encode i) = i ∧ decodeTableWord 32 (encode i).toNat = some i

/-- Encoding what a word decodes to gives the word back with the fields its command does not use zeroed, and what it
decodes to is well-formed (R61, R62, R64). -/
def Obligations.DecodedWordEncodesToItsUsedFields : Prop :=
  ∀ w : Word, WellFormed (decodeWord w) ∧ encode (decodeWord w) = w &&& usedMask w

/-- R64: unused fields are ignored in every tick: the same next state, or the same fault but for the command word on
record. An assembler writes them as zero, and range preconditions apply to used fields only, so `CLEAR_ALL` completes
whatever its `ROW` field holds. -/
def Obligations.UnusedFieldsAreIgnored : Prop :=
  (∀ (s : State) (w w' : Word), w &&& usedMask w = w' &&& usedMask w' →
    (∀ t, step (s.present w) = .next t ↔ step (s.present w') = .next t) ∧
    (∀ f, step (s.present w) = .fault f → step (s.present w') = .fault (f.withWord w')) ∧
    (∀ r, step (s.present w) = .refused r ↔ step (s.present w') = .refused r)) ∧
  (∀ i : Instr, WellFormed i → encode i &&& usedMask (encode i) = encode i) ∧
  (∀ (s : State) (w : Word), opField w = 0x1#4 → ∃ t, exec (decodeWord w) s = .next t)

/-- Words written out from R61 and R62 decode to the commands they stand for, one and more of each family. -/
def Obligations.SpecWordsDecodeToTheirCommands : Prop :=
  decodeWord 0x00000000#32 = .nop ∧ decodeWord 0x1FF12345#32 = .clearAll ∧ decodeWord 0x20100000#32 = .clearRow 1 ∧
  decodeWord 0x30101ABC#32 = .get 1 1 ∧ decodeWord 0x4010F800#32 = .set 1 15 0x800#12 ∧
  decodeWord 0x5FF00123#32 = .setRow 255 0x123#12 ∧ decodeWord 0x60000123#32 = .setAll 0x123#12 ∧
  decodeWord 0x70000000#32 = .init ∧ decodeWord 0x80000800#32 = .initv 0x800#12 ∧
  decodeWord 0x9ABCDEF0#32 = .start ∧ decodeWord 0xA0000000#32 = .stop ∧ decodeWord 0xB0000000#32 = .evtOff ∧
  decodeWord 0xC0000000#32 = .evtOn ∧ decodeWord 0xD0000000#32 = .reservedD ∧
  decodeWord 0xE1234567#32 = .reservedE ∧ decodeWord 0xFFFFFFFF#32 = .reservedF

/-- The words of R67's syntax table, as the sums written there. -/
def Obligations.EncodedWordsAreTheSyntaxTablesSums : Prop :=
  (encode .nop).toNat = 0x00000000 ∧ (encode .clearAll).toNat = 0x10000000 ∧
  (∀ r < 256, (encode (.clearRow r)).toNat = 0x20000000 + r * 2 ^ 20) ∧
  (∀ r < 256, ∀ c < 256, (encode (.get r c)).toNat = 0x30000000 + r * 2 ^ 20 + c * 2 ^ 12) ∧
  (∀ r < 256, ∀ c < 256, ∀ v : Gray,
    (encode (.set r c v)).toNat = 0x40000000 + r * 2 ^ 20 + c * 2 ^ 12 + v.toNat) ∧
  (∀ r < 256, ∀ v : Gray, (encode (.setRow r v)).toNat = 0x50000000 + r * 2 ^ 20 + v.toNat) ∧
  (∀ v : Gray, (encode (.setAll v)).toNat = 0x60000000 + v.toNat) ∧ (encode .init).toNat = 0x70000000 ∧
  (∀ v : Gray, (encode (.initv v)).toNat = 0x80000000 + v.toNat) ∧ (encode .start).toNat = 0x90000000 ∧
  (encode .stop).toNat = 0xA0000000 ∧ (encode .evtOff).toNat = 0xB0000000 ∧ (encode .evtOn).toNat = 0xC0000000

/-! ### The tick -/

/-- A step runs the decoded command: with a valid configuration, no reset and no fault condition, a tick that takes
the command port's word is `exec` of what it decodes to, followed by steps 4 to 6 of R30 (`finishTick`). A tick that
takes none only lets `rvalid` fall before them: R30 does not say so of such a tick, it is the model's deduction from
R26 and R81 (DEDUCED, log entry 8). -/
def Obligations.StepRunsTheDecodedCommand : Prop :=
  ∀ s : State, s.cfg.Valid → s.port.rst = false → s.timingFault = none →
    (s.cmdTaken = true → step s =
      match exec (decodeWord s.port.cmd) s with
      | .next s1 => .next (s.finishTick s1)
      | .fault f => .fault f
      | .refused r => .refused r) ∧
    (s.cmdTaken = false → step s = .next (s.finishTick { s with rvalid := false }))

/-- A word placed by `withFetchWord` is the command the very next step runs, in every state of a validly configured
machine (the model's own convention, log entry 11). -/
def Obligations.PlacedWordRunsInTheNextStep : Prop :=
  ∀ (s : State) (w : Nat), s.cfg.Valid →
    step (s.withFetchWord 32 w) =
      match exec (decodeWord (BitVec.ofNat 32 w)) (s.withFetchWord 32 w) with
      | .next s1 => .next ((s.withFetchWord 32 w).finishTick s1)
      | .fault f => .fault f
      | .refused r => .refused r

/-- R70: a command presented while `CMD_READY = 0` is not accepted and has no effect: the tick is the same whatever
the host presents. -/
def Obligations.UnreadyPortIgnoresTheHost : Prop :=
  ∀ (s : State) (v v' : Bool) (w w' : Word), s.cmdReady = false →
    step { s with port := { rst := false, cmdValid := v, cmd := w } } =
      step { s with port := { rst := false, cmdValid := v', cmd := w' } }

/-- `NOP` completes and changes nothing but `rvalid`, and a tick that accepts a `NOP`, whatever its other fields
hold, has the same next state as a tick with `CMD_VALID = 0` (R81, R64). -/
def Obligations.NopTickIsAnEmptyTick : Prop :=
  (∀ s : State, ∃ t, exec .nop s = .next t ∧ t = { s with rvalid := false }) ∧
  (∀ (s : State) (w w' : Word), opField w = 0x0#4 →
    step (s.present w) = step { s with port := { rst := false, cmdValid := false, cmd := w' } })

/-- Reset (R30, R32, R180, R181): the state after a tick with `RST = 1`, whatever the state and the other inputs were:
stopped, events enabled, none pending, sequencer idle at row 0, all output lines 0 except `BLANK` and `CMD_READY`,
buffer untouched. That every such tick completes, also where a fault condition of R163 holds, is the model's reading of
R30 (DEDUCED, log entry 7). -/
def Obligations.ResetTickGivesTheResetState : Prop :=
  ∀ s : State, s.cfg.Valid → s.port.rst = true → ∃ t, step s = .next t ∧
    t.run = false ∧ t.blPhase = 0 ∧ t.gsPhase = 0 ∧ t.evtEn = true ∧ t.evtPend = false ∧ t.seqState = .idle ∧
    t.nextRow = 0 ∧ t.rowaddr = 0 ∧ t.byteIdx = 0 ∧ t.bitIdx = 7 ∧ t.sub = .setUp ∧ t.sin = false ∧ t.sclk = false ∧
    t.rdata = 0#12 ∧ t.rvalid = false ∧ t.buf = s.buf ∧ t.cfg = s.cfg ∧
    t.outPorts = { cmdReady := true, rvalid := false, rdata := 0#12, sin := false, sclk := false, rowaddr := 0,
                   blank := true, xlat := false, gsclk := false }

/-- No machine for an invalid configuration (R8, R164): from a configuration that fails `ConfigValid` none is built; from
a valid one it is, with any buffer contents. That a state with an invalid `cfg` can be written down, and that its step
is refused by `configViolation`, the only refusal there is, is the model's own form of this (DESIGN CHOICE, log
entry 1). -/
def Obligations.InvalidConfigurationIsRefused : Prop :=
  (∀ (c : Cfg) (b : Memory), ¬ c.Valid → build c b = .refused (.configViolation c)) ∧
  (∀ s : State, ¬ s.cfg.Valid → step s = .refused (.configViolation s.cfg)) ∧
  (∀ (c : Cfg) (b : Memory), c.Valid → build c b = .next (State.powerUp c b)) ∧
  (∀ s r, step s = .refused r → ¬ s.cfg.Valid)

/-- R163 and R167: exactly when a tick raises a `TimingViolation`, and which one: `TornLatch` before `MissedBoundary`,
both before the command. -/
def Obligations.TimingViolationsAreRaisedExactly : Prop :=
  ∀ s : State, s.cfg.Valid → s.port.rst = false → ∀ n : Nat,
    (step s = .fault (.timingViolation .tornLatch n) ↔ n = s.tick ∧ s.xlat = true ∧ s.seqState = .busy) ∧
    (step s = .fault (.timingViolation .missedBoundary n) ↔
      n = s.tick ∧ s.run = true ∧ s.blPhase = s.cfg.eventPhase ∧ (s.evtPend = true ∨ s.seqState = .busy))

/-! ### The invariant -/

/-- The invariant holds after reset, and in every machine built from a valid configuration with any canonical buffer
contents inside the RowSet. -/
def Obligations.ResetMeetsTheInvariant : Prop :=
  Inv State.reset ∧ ∀ (c : Cfg) (b : Memory), c.Valid → b.wf → b.inRowSet c → Inv (State.powerUp c b)

/-- Every tick keeps the invariant: the buffer stays canonical and inside the RowSet, every counter in its range, the
phases 0 while stopped, the sequencer's position, clock and data line as R24, R25 and R137 say. -/
def Obligations.EveryStepKeepsTheInvariant : Prop :=
  ∀ s t : State, Inv s → step s = .next t → Inv t

/-- No tick changes the configuration, and each one counts (R33 a; the tick number is the model's own, log
entry 9). -/
def Obligations.ConfigurationNeverChanges : Prop :=
  ∀ s t : State, step s = .next t → t.cfg = s.cfg ∧ t.tick = s.tick + 1

/-- The buffer is changed only by a taken buffer command (R15), never in a tick that accepts an event, in a tick of a
shift, or by reset (R56, R180). -/
def Obligations.OnlyBufferCommandsChangeTheBuffer : Prop :=
  ∀ s t : State, step s = .next t →
    t.buf = s.buf ∨
    (s.cmdTaken = true ∧ s.port.rst = false ∧ s.seqState = .idle ∧ s.accept = false ∧
      ((∃ r, s.command = .clearRow r) ∨ (∃ r c v, s.command = .set r c v) ∨ (∃ r v, s.command = .setRow r v) ∨
        (∃ v, s.command = .setAll v ∨ s.command = .initv v) ∨ s.command = .clearAll ∨ s.command = .init))

/-- What the buffer holds never steers the machine (R28, R31, R54, R110, R133 to R139, R161 to R163): with other contents
the same tick goes the same way. If it completes, the two next states differ at most in the buffer, the data line and
the read data; if it faults or is refused, it does so alike, record and all. -/
def Obligations.BufferContentsNeverSteerTheMachine : Prop :=
  ∀ (s : State) (m : Memory),
    (∀ t, step s = .next t → ∃ m' b d, step { s with buf := m } = .next { t with buf := m', sin := b, rdata := d }) ∧
    (∀ f, step s = .fault f ↔ step { s with buf := m } = .fault f) ∧
    (∀ r, step s = .refused r ↔ step { s with buf := m } = .refused r)

/-! ### GrayscaleBuffer commands -/

/-- R82: `CLEAR_ALL` completes in every state, every byte of every row is 0 whatever it held, and nothing else changes
but `rvalid`. -/
def Obligations.ClearAllZeroesEveryByte : Prop :=
  (∀ w : Word, opField w = 0x1#4 → decodeWord w = .clearAll) ∧
  ∀ s : State, s.cfg.Valid → s.buf.wf → ∃ t, exec .clearAll s = .next t ∧
    t = { s with buf := t.buf, rvalid := false } ∧
    (∀ r < s.cfg.rowCount, ∀ i < s.cfg.rowBytes, t.buf.read (rowKey r i) = 0x00#8) ∧
    (∀ a, (∀ r < s.cfg.rowCount, ∀ i < s.cfg.rowBytes, a ≠ rowKey r i) → t.buf.read a = s.buf.read a) ∧
    (∀ r < s.cfg.rowCount, ∀ c < s.cfg.nCh, readChannel s.cfg t.buf r c = 0#12)

/-- R83: `CLEAR_ROW r` zeroes row `r` and no other byte; out of range it raises `PreconditionViolation(row)`. -/
def Obligations.ClearRowZeroesOneRow : Prop :=
  (∀ w : Word, opField w = 0x2#4 → decodeWord w = .clearRow (w.extractLsb' 20 8).toNat) ∧
  ∀ (s : State) (r : Nat), s.cfg.Valid → s.buf.wf →
    (s.cfg.rowCount ≤ r → exec (.clearRow r) s = .fault (.preconditionViolation .row s.port.cmd s.tick)) ∧
    (r < s.cfg.rowCount → ∃ t, exec (.clearRow r) s = .next t ∧
      t = { s with buf := t.buf, rvalid := false } ∧
      (∀ i < s.cfg.rowBytes, t.buf.read (rowKey r i) = 0x00#8) ∧
      (∀ a, (∀ i < s.cfg.rowBytes, a ≠ rowKey r i) → t.buf.read a = s.buf.read a) ∧
      (∀ c < s.cfg.nCh, readChannel s.cfg t.buf r c = 0#12))

/-- R84: `GET r, c` puts the channel's value, by the packing formulas, on `rdata`, sets `rvalid`, and writes nothing
else; out of range it raises `PreconditionViolation`, row before channel. The value is on `RDATA` with `RVALID = 1` in
the next tick and `RDATA` keeps it until the next `GET`. -/
def Obligations.GetReadsTheChannelByThePackingFormulas : Prop :=
  (∀ w : Word, opField w = 0x3#4 → decodeWord w = .get (w.extractLsb' 20 8).toNat (w.extractLsb' 12 8).toNat) ∧
  (∀ (s : State) (r c : Nat),
    (s.cfg.rowCount ≤ r → exec (.get r c) s = .fault (.preconditionViolation .row s.port.cmd s.tick)) ∧
    (r < s.cfg.rowCount → s.cfg.nCh ≤ c →
      exec (.get r c) s = .fault (.preconditionViolation .channel s.port.cmd s.tick)) ∧
    (r < s.cfg.rowCount → c < s.cfg.nCh → ∃ t, exec (.get r c) s = .next t ∧
      t = { s with rdata := t.rdata, rvalid := true } ∧
      ∀ idx bytePos : Nat, idx = s.cfg.nCh - 1 - c → bytePos = (idx * 3) >>> 1 →
        ∀ b0 b1 : Nat, b0 = (s.buf.read (rowKey r bytePos)).toNat → b1 = (s.buf.read (rowKey r (bytePos + 1))).toNat →
          t.rdata.toNat = if idx % 2 = 1 then b0 % 16 * 256 + b1 else b0 * 16 + b1 / 16)) ∧
  ∀ (s : State) (r c : Nat), s.cfg.Valid → s.port.rst = false → s.timingFault = none → s.cmdTaken = true →
    s.command = .get r c → r < s.cfg.rowCount → c < s.cfg.nCh →
    ∃ t, step s = .next t ∧ t.outPorts.rvalid = true ∧ t.outPorts.rdata = readChannel s.cfg s.buf r c ∧ t.buf = s.buf ∧
      ∀ u, step t = .next u → t.port.rst = false →
        (∀ r' c', t.cmdTaken = true → t.command ≠ .get r' c') → u.outPorts.rdata = t.outPorts.rdata

/-- R85: `SET r, c, v` writes the channel's 12 bits into its two bytes, keeps the neighbour's nibble of the boundary
byte, and changes no other byte; out of range it raises `PreconditionViolation`, row before channel. -/
def Obligations.SetWritesTheChannelByThePackingFormulas : Prop :=
  (∀ w : Word, opField w = 0x4#4 →
    decodeWord w = .set (w.extractLsb' 20 8).toNat (w.extractLsb' 12 8).toNat (w.extractLsb' 0 12)) ∧
  ∀ (s : State) (r c : Nat) (v : Gray), s.cfg.Valid → s.buf.wf →
    (s.cfg.rowCount ≤ r → exec (.set r c v) s = .fault (.preconditionViolation .row s.port.cmd s.tick)) ∧
    (r < s.cfg.rowCount → s.cfg.nCh ≤ c →
      exec (.set r c v) s = .fault (.preconditionViolation .channel s.port.cmd s.tick)) ∧
    (r < s.cfg.rowCount → c < s.cfg.nCh → ∃ t, exec (.set r c v) s = .next t ∧
      t = { s with buf := t.buf, rvalid := false } ∧
      ∀ idx bytePos : Nat, idx = s.cfg.nCh - 1 - c → bytePos = (idx * 3) >>> 1 →
        (∀ b0 b1 : Nat, b0 = (s.buf.read (rowKey r bytePos)).toNat → b1 = (s.buf.read (rowKey r (bytePos + 1))).toNat →
          (t.buf.read (rowKey r bytePos)).toNat =
            (if idx % 2 = 1 then b0 / 16 * 16 + v.toNat / 256 else v.toNat / 16) ∧
          (t.buf.read (rowKey r (bytePos + 1))).toNat =
            (if idx % 2 = 1 then v.toNat % 256 else v.toNat % 16 * 16 + b1 % 16)) ∧
        (∀ a, a ≠ rowKey r bytePos → a ≠ rowKey r (bytePos + 1) → t.buf.read a = s.buf.read a))

/-- R86: `SET_ROW r, v` fills row `r` with the pattern `b0 = value>>4`, `b1 = (value<<4 mod 256) | (value>>8)`,
`b2 = value mod 256` and changes no other byte; every channel of the row then reads `v`; out of range it raises
`PreconditionViolation(row)`. -/
def Obligations.SetRowFillsTheRowWithThePattern : Prop :=
  (∀ w : Word, opField w = 0x5#4 → decodeWord w = .setRow (w.extractLsb' 20 8).toNat (w.extractLsb' 0 12)) ∧
  ∀ (s : State) (r : Nat) (v : Gray), s.cfg.Valid → s.buf.wf →
    (s.cfg.rowCount ≤ r → exec (.setRow r v) s = .fault (.preconditionViolation .row s.port.cmd s.tick)) ∧
    (r < s.cfg.rowCount → ∃ t, exec (.setRow r v) s = .next t ∧
      t = { s with buf := t.buf, rvalid := false } ∧
      (∀ k < s.cfg.rowBytes / 3,
        (t.buf.read (rowKey r (3 * k))).toNat = v.toNat >>> 4 ∧
        (t.buf.read (rowKey r (3 * k + 1))).toNat = ((v.toNat <<< 4) % 256) ||| (v.toNat >>> 8) ∧
        (t.buf.read (rowKey r (3 * k + 2))).toNat = v.toNat % 256) ∧
      (∀ a, (∀ i < s.cfg.rowBytes, a ≠ rowKey r i) → t.buf.read a = s.buf.read a) ∧
      (∀ c < s.cfg.nCh, readChannel s.cfg t.buf r c = v))

/-- R87: `SET_ALL v` applies `SET_ROW` to every row, in the one tick; with `v = 0` it has the effect of `CLEAR_ALL`. -/
def Obligations.SetAllAppliesSetRowToEveryRow : Prop :=
  (∀ w : Word, opField w = 0x6#4 → decodeWord w = .setAll (w.extractLsb' 0 12)) ∧
  ∀ (s : State) (v : Gray), s.cfg.Valid → s.buf.wf → ∃ t, exec (.setAll v) s = .next t ∧
    t = { s with buf := t.buf, rvalid := false } ∧
    (∀ r < s.cfg.rowCount, ∃ u, exec (.setRow r v) s = .next u ∧
      ∀ i < s.cfg.rowBytes, t.buf.read (rowKey r i) = u.buf.read (rowKey r i)) ∧
    (∀ a, (∀ r < s.cfg.rowCount, ∀ i < s.cfg.rowBytes, a ≠ rowKey r i) → t.buf.read a = s.buf.read a) ∧
    exec (.setAll 0#12) s = exec .clearAll s ∧
    execAll ((List.range s.cfg.rowCount).map fun r => .setRow r v) s = some t

/-- R88 and R89: `INIT` completes with exactly the effect of `CLEAR_ALL`, `INITV v` with exactly that of `SET_ALL v`:
every channel of every row reads 0, or `v`, and nothing but the RowSet and `rvalid` changes. -/
def Obligations.InitialisationFillsTheBufferOnly : Prop :=
  (∀ w : Word, opField w = 0x7#4 → decodeWord w = .init) ∧
  (∀ w : Word, opField w = 0x8#4 → decodeWord w = .initv (w.extractLsb' 0 12)) ∧
  ∀ (s : State) (v : Gray), s.cfg.Valid → s.buf.wf →
    (exec .init s = exec .clearAll s ∧ ∃ t, exec .init s = .next t ∧ t = { s with buf := t.buf, rvalid := false } ∧
      (∀ r < s.cfg.rowCount, ∀ c < s.cfg.nCh, readChannel s.cfg t.buf r c = 0#12) ∧
      (∀ a, (∀ r < s.cfg.rowCount, ∀ i < s.cfg.rowBytes, a ≠ rowKey r i) → t.buf.read a = s.buf.read a)) ∧
    (exec (.initv v) s = exec (.setAll v) s ∧ ∃ t, exec (.initv v) s = .next t ∧
      t = { s with buf := t.buf, rvalid := false } ∧
      (∀ r < s.cfg.rowCount, ∀ c < s.cfg.nCh, readChannel s.cfg t.buf r c = v) ∧
      (∀ a, (∀ r < s.cfg.rowCount, ∀ i < s.cfg.rowBytes, a ≠ rowKey r i) → t.buf.read a = s.buf.read a))

/-- R91, the round trip: `SET r, c, v` followed by `GET r, c` returns `v`. -/
def Obligations.SetThenGetReturnsTheValue : Prop :=
  ∀ (s : State) (r c : Nat) (v : Gray), s.cfg.Valid → s.buf.wf → r < s.cfg.rowCount → c < s.cfg.nCh →
    ∃ t u, exec (.set r c v) s = .next t ∧ exec (.get r c) t = .next u ∧ u.rdata = v ∧ u.rvalid = true

/-- R92, non-interference: `SET r, c, v` does not alter `GET r2, c2` for any other channel. -/
def Obligations.SetLeavesEveryOtherChannelAlone : Prop :=
  ∀ (s : State) (r c r2 c2 : Nat) (v : Gray), s.cfg.Valid → s.buf.wf → r < s.cfg.rowCount → c < s.cfg.nCh →
    r2 < s.cfg.rowCount → c2 < s.cfg.nCh → (r2, c2) ≠ (r, c) →
    ∃ t u u0, exec (.set r c v) s = .next t ∧ exec (.get r2 c2) t = .next u ∧ exec (.get r2 c2) s = .next u0 ∧
      u.rdata = u0.rdata

/-- R93, bulk equivalence: `SET_ROW r, v` gives the very state that `SET`s of every channel of row `r`, in any order
and with repeats, give, byte for byte. -/
def Obligations.SetRowEqualsSettingEveryChannel : Prop :=
  ∀ (s : State) (r : Nat) (v : Gray) (cs : List Nat), s.cfg.Valid → s.buf.wf → r < s.cfg.rowCount →
    (∀ c, c ∈ cs ↔ c < s.cfg.nCh) →
    ∃ t, exec (.setRow r v) s = .next t ∧ execAll (cs.map fun c => .set r c v) s = some t

/-- R94: after `CLEAR_ROW r`, `GET r, c` returns 0 for every channel. -/
def Obligations.ClearedRowReadsZero : Prop :=
  ∀ (s : State) (r c : Nat), s.cfg.Valid → s.buf.wf → r < s.cfg.rowCount → c < s.cfg.nCh →
    ∃ t u, exec (.clearRow r) s = .next t ∧ exec (.get r c) t = .next u ∧ u.rdata = 0#12

/-- Every command is idempotent, done again at once it leaves the state the first execution left: the write commands by
R48, `NOP` by R81, `GET` by R84, `START` by R112, `STOP` by R113, `EVT_OFF` by R131, `EVT_ON` by R132. -/
def Obligations.EveryCommandIsIdempotent : Prop :=
  ∀ (i : Instr) (s t : State), s.cfg.Valid → s.buf.wf → exec i s = .next t → exec i t = .next t

/-- The same layout seen as pairs and as a bit string (R43): the three bytes of pair `k` hold exactly two channels,
and bit 11 of the value with index `idx` stands at string position `12 * idx`. -/
def Obligations.RowIsABitStringOfChannels : Prop :=
  ∀ (c : Cfg) (m : Memory) (r : Nat), c.Valid →
    (∀ k < c.nCh / 2, ∀ a b : Gray, a = readChannel c m r (c.nCh - 1 - 2 * k) → b = readChannel c m r (c.nCh - 2 - 2 * k) →
      memRead1 m r (3 * k) = a.extractLsb' 4 8 ∧
      memRead1 m r (3 * k + 1) = a.extractLsb' 0 4 ++ b.extractLsb' 8 4 ∧
      memRead1 m r (3 * k + 2) = b.extractLsb' 0 8) ∧
    (∀ idx < c.nCh, ∀ j < 12, rowBit m r (12 * idx + j) = (readChannel c m r (c.nCh - 1 - idx)).getLsbD (11 - j))

/-- Bounds (R44, R90): the two bytes of every channel lie inside its row, channel 0 in the last two, and the product
is at most 765. -/
def Obligations.ChannelBytesLieInsideTheRow : Prop :=
  ∀ (c : Cfg) (ch : Nat), c.Valid → ch < c.nCh →
    bytePos c ch + 1 ≤ c.rowBytes - 1 ∧ bytePos c 0 = c.rowBytes - 2 ∧ chanIdx c ch + ch + 1 = c.nCh ∧
    chanIdx c ch * 3 ≤ 765

/-- R161: a taken `CLEAR_ROW`, `GET`, `SET` or `SET_ROW` with an index out of range raises `PreconditionViolation` in
that tick, before any effect, row before channel, recording the command word (and the tick, R160). -/
def Obligations.OutOfRangeIndexesAreRaised : Prop :=
  ∀ s : State, s.cfg.Valid → s.port.rst = false → s.timingFault = none → s.cmdTaken = true →
    ((∃ r, s.cfg.rowCount ≤ r ∧
        (s.command = .clearRow r ∨ (∃ c, s.command = .get r c) ∨ (∃ c v, s.command = .set r c v) ∨
          ∃ v, s.command = .setRow r v)) ↔
      step s = .fault (.preconditionViolation .row s.port.cmd s.tick)) ∧
    ((∃ r c, r < s.cfg.rowCount ∧ s.cfg.nCh ≤ c ∧ (s.command = .get r c ∨ ∃ v, s.command = .set r c v)) ↔
      step s = .fault (.preconditionViolation .channel s.port.cmd s.tick))

/-- R162: a reserved opcode, accepted, raises `ReservedCommand` with the opcode and the command word (and the tick,
R160); it never acts as `NOP`. -/
def Obligations.ReservedOpcodesAreRaised : Prop :=
  (∀ s : State, exec .reservedD s = .fault (.reservedCommand 0xD#4 s.port.cmd s.tick) ∧
    exec .reservedE s = .fault (.reservedCommand 0xE#4 s.port.cmd s.tick) ∧
    exec .reservedF s = .fault (.reservedCommand 0xF#4 s.port.cmd s.tick)) ∧
  ∀ s : State, s.cfg.Valid → s.port.rst = false → s.timingFault = none → s.cmdTaken = true →
    0xD ≤ (opField s.port.cmd).toNat → step s = .fault (.reservedCommand (opField s.port.cmd) s.port.cmd s.tick)

/-- R160 and R165: every fault of a tick is a record that names the tick and, where a taken command raised it, the
command word on the port (log entries 9 and 10); those are all the faults; and there is no state after one (log
entry 6). -/
def Obligations.EveryFaultRecordNamesItsTick : Prop :=
  ∀ (s : State) (f : Fault), step s = .fault f →
    ((∃ k, s.timingFault = some k ∧ f = .timingViolation k s.tick) ∨
      (s.timingFault = none ∧ s.cmdTaken = true ∧
        ((∃ k, f = .preconditionViolation k s.port.cmd s.tick) ∨
          f = .reservedCommand (opField s.port.cmd) s.port.cmd s.tick))) ∧
    ∀ n, after (n + 1) s = none

/-- R26: `rvalid = 1` during exactly the tick after a `GET` is accepted, `rdata` then holds its result and keeps it
until the next `GET` is accepted; reset clears both. -/
def Obligations.ReadDataFollowsTheAcceptedGet : Prop :=
  ∀ s t : State, step s = .next t →
    (s.port.rst = true → t.rvalid = false ∧ t.rdata = 0#12) ∧
    (s.port.rst = false →
      (t.rvalid = true ↔ s.cmdTaken = true ∧ ∃ r c, s.command = .get r c) ∧
      (∀ r c, s.cmdTaken = true → s.command = .get r c → t.rdata = readChannel s.cfg s.buf r c) ∧
      (t.rvalid = false → t.rdata = s.rdata))

/-! ### PulseGenerator -/

/-- R112: `START` sets `run` and nothing else; a stopped machine's counters are 0 in the next tick, a running one's
are not restarted. -/
def Obligations.StartSetsRunOnly : Prop :=
  (∀ w : Word, opField w = 0x9#4 → decodeWord w = .start) ∧
  (∀ s : State, ∃ t, exec .start s = .next t ∧ t = { s with run := true, rvalid := false }) ∧
  ∀ s : State, s.cfg.Valid → s.port.rst = false → s.timingFault = none → s.cmdTaken = true → s.command = .start →
    ∃ t, step s = .next t ∧ t.run = true ∧ t.buf = s.buf ∧ t.evtEn = s.evtEn ∧ t.nextRow = s.nextRow ∧
      (s.run = false → t.blPhase = 0 ∧ t.gsPhase = 0) ∧
      (s.run = true → t.blPhase = (s.blPhase + 1) % s.cfg.pBlank ∧ t.gsPhase = (s.gsPhase + 1) % s.cfg.pGsclk)

/-- R113: `STOP` clears `run`, both phases and `evt_pend`, a firing or deferred event with them; it is accepted only
while the sequencer is idle and no event is being accepted, and touches neither `buf`, `evt_en`, `next_row`, `rowaddr`
nor `sin`. In the next tick the lines are at their stopped levels. -/
def Obligations.StopClearsTheGenerator : Prop :=
  (∀ w : Word, opField w = 0xA#4 → decodeWord w = .stop) ∧
  (∀ s : State, ∃ t, exec .stop s = .next t ∧
    t = { s with run := false, blPhase := 0, gsPhase := 0, evtPend := false, rvalid := false }) ∧
  ∀ s : State, s.cfg.Valid → s.port.rst = false → s.timingFault = none → s.cmdTaken = true → s.command = .stop →
    s.seqState = .idle ∧ s.accept = false ∧ (s.evtFire = true → s.evtEn = false) ∧
    ∃ t, step s = .next t ∧ t.run = false ∧ t.blPhase = 0 ∧ t.gsPhase = 0 ∧ t.evtPend = false ∧
      t.buf = s.buf ∧ t.evtEn = s.evtEn ∧ t.nextRow = s.nextRow ∧ t.rowaddr = s.rowaddr ∧ t.sin = s.sin ∧
      t.blank = true ∧ t.xlat = false ∧ t.gsclk = false ∧ t.evtFire = false

/-- The counter advance of R111, with `run` as it was at the start of the tick; and what changes `run` in a tick
without reset (R16): only a taken `STOP` clears it and only a taken `START` sets it. -/
def Obligations.PhaseCountersAdvance : Prop :=
  ∀ s t : State, step s = .next t → s.port.rst = false →
    (s.stopTaken = true → t.blPhase = 0 ∧ t.gsPhase = 0 ∧ t.run = false) ∧
    (s.stopTaken = false → s.run = true →
      t.blPhase = (s.blPhase + 1) % s.cfg.pBlank ∧ t.gsPhase = (s.gsPhase + 1) % s.cfg.pGsclk ∧ t.run = true) ∧
    (s.stopTaken = false → s.run = false → t.blPhase = 0 ∧ t.gsPhase = 0 ∧
      (t.run = true ↔ s.cmdTaken = true ∧ s.command = .start))

/-- The nesting of R116, in every state: the latch pulse lies strictly inside the blank window, blank leads it and
outlasts it. -/
def Obligations.LatchPulseIsNestedInBlank : Prop :=
  ∀ s : State, s.cfg.Valid →
    (s.xlat = true → s.blank = true) ∧
    (s.blPhase = 0 → s.blank = true ∧ s.xlat = false) ∧
    (s.blank = false → s.xlat = false) ∧
    (∃ p, p < s.cfg.blankDuty ∧ ({ s with blPhase := p } : State).blank = true ∧
      ({ s with blPhase := p } : State).xlat = false) ∧
    (s.xlat = true → ({ s with blPhase := s.blPhase + 1 } : State).xlat = true ∨
      s.blPhase + 1 = s.cfg.latchEnd ∧ s.cfg.latchEnd ≤ s.cfg.blankDuty)

/-- R122: while `run = 0` the counters are 0, `BLANK = 1`, `XLAT = 0`, `GSCLK = 0`, and no event fires. -/
def Obligations.StoppedLinesAreDark : Prop :=
  ∀ s : State, Inv s → s.run = false →
    s.blPhase = 0 ∧ s.gsPhase = 0 ∧ s.blank = true ∧ s.xlat = false ∧ s.gsclk = false ∧ s.evtFire = false

/-- Periodicity (R111, R123): `n + 1` ticks after a `START` taken by a stopped machine, if neither reset nor `STOP`
comes, the phases are `n` modulo the periods, and the lines and the event are their comparisons. -/
def Obligations.LinesArePeriodicAfterStart : Prop :=
  ∀ (s t : State) (n : Nat), Inv s → s.run = false → s.cmdTaken = true → s.command = .start → s.goesOn = true →
    after (n + 1) s = some t →
    t.run = true ∧ t.blPhase = n % s.cfg.pBlank ∧ t.gsPhase = n % s.cfg.pGsclk ∧
    (t.blank = true ↔ n % s.cfg.pBlank < s.cfg.blankDuty) ∧
    (t.xlat = true ↔ s.cfg.latchStart ≤ n % s.cfg.pBlank ∧ n % s.cfg.pBlank < s.cfg.latchStart + s.cfg.latchDuty) ∧
    (t.evtFire = true ↔ n % s.cfg.pBlank = s.cfg.eventPhase) ∧
    (t.gsclk = true ↔ (s.cfg.pGsclk + 1) / 2 ≤ n % s.cfg.pGsclk)

/-! ### RowShiftProtocol -/

/-- `EVT_OFF` clears `evt_en` and nothing else; with events on, none fires in the tick it is taken (R131). -/
def Obligations.EventsOffHoldsEventsBack : Prop :=
  (∀ w : Word, opField w = 0xB#4 → decodeWord w = .evtOff) ∧
  (∀ s : State, ∃ t, exec .evtOff s = .next t ∧ t = { s with evtEn := false, rvalid := false }) ∧
  ∀ s : State, s.cfg.Valid → s.port.rst = false → s.timingFault = none → s.cmdTaken = true → s.command = .evtOff →
    s.accept = false ∧ (s.evtEn = true → s.evtFire = false) ∧
    ∃ t, step s = .next t ∧ t.evtEn = false ∧ t.run = s.run ∧ t.seqState = .idle ∧
      (s.evtEn = false → t.evtPend = (s.evtPend || s.evtFire))

/-- R132: `EVT_ON` sets `evt_en` and nothing else; an event pending or firing in the tick after it is accepted in that
tick. -/
def Obligations.EventsOnAcceptsADeferredEvent : Prop :=
  (∀ w : Word, opField w = 0xC#4 → decodeWord w = .evtOn) ∧
  (∀ s : State, ∃ t, exec .evtOn s = .next t ∧ t = { s with evtEn := true, rvalid := false }) ∧
  ∀ s : State, s.cfg.Valid → s.port.rst = false → s.timingFault = none → s.cmdTaken = true → s.command = .evtOn →
    ∃ t, step s = .next t ∧ t.evtEn = true ∧ (t.evtPend = true ∨ t.evtFire = true → t.accept = true)

/-- R133: an event that cannot be accepted is remembered, an accepted request clears it, a `STOP` discards it, and a
second one while it pends raises `TimingViolation(MissedBoundary)` in that tick. -/
def Obligations.UnacceptedEventIsRemembered : Prop :=
  (∀ s t : State, step s = .next t → s.port.rst = false →
    t.evtPend = if s.stopTaken then false else (s.evtPend || s.evtFire) && !s.accept) ∧
  (∀ s : State, s.cfg.Valid → s.port.rst = false → s.evtFire = true → s.evtPend = true →
    step s = .fault (.timingViolation .missedBoundary s.tick))

/-- R135 and R136: an accepted event selects the row `next_row`, advances `next_row` round robin, and sets up the first
bit; `next_row` and `rowaddr` are changed by nothing else but reset, and with one row `next_row` stays 0. -/
def Obligations.AcceptedEventSelectsTheNextRow : Prop :=
  (∀ s : State, s.cfg.Valid → s.port.rst = false → s.timingFault = none → s.accept = true →
    s.cmdReady = false ∧
    ∃ t, step s = .next t ∧ t.rowaddr = s.nextRow ∧ t.nextRow = (s.nextRow + 1) % s.cfg.rowCount ∧
      t.seqState = .busy ∧ t.byteIdx = 0 ∧ t.bitIdx = 7 ∧ t.sub = .setUp ∧ t.sclk = false ∧
      t.sin = (s.buf.read (rowKey s.nextRow 0)).getLsbD 7 ∧ t.buf = s.buf ∧ t.evtEn = s.evtEn ∧ t.evtPend = false) ∧
  (∀ s t : State, step s = .next t → s.port.rst = false → s.accept = false →
    t.nextRow = s.nextRow ∧ t.rowaddr = s.rowaddr) ∧
  (∀ s t : State, step s = .next t → s.port.rst = true → t.nextRow = 0) ∧
  (∀ s t : State, step s = .next t → s.cfg.rowCount = 1 → s.nextRow = 0 → t.nextRow = 0)

/-- R137: in the first two ticks of a bit cell the clock line goes high and then low, the data line and the position
holding still. -/
def Obligations.BitCellPulsesTheClock : Prop :=
  ∀ s : State, s.cfg.Valid → s.port.rst = false → s.timingFault = none → s.seqState = .busy →
    (s.sub = .setUp → ∃ t, step s = .next t ∧ t.sclk = true ∧ t.sub = .high ∧ t.seqState = .busy ∧ t.sin = s.sin ∧
      t.byteIdx = s.byteIdx ∧ t.bitIdx = s.bitIdx ∧ t.rowaddr = s.rowaddr ∧ t.buf = s.buf) ∧
    (s.sub = .high → ∃ t, step s = .next t ∧ t.sclk = false ∧ t.sub = .low ∧ t.seqState = .busy ∧ t.sin = s.sin ∧
      t.byteIdx = s.byteIdx ∧ t.bitIdx = s.bitIdx ∧ t.rowaddr = s.rowaddr ∧ t.buf = s.buf)

/-- R138: after the third tick of a cell that is not the row's last, the next bit is set up: the next lower bit of the
byte, or bit 7 of the next byte. -/
def Obligations.SequencerAdvancesToTheNextBit : Prop :=
  ∀ s : State, s.cfg.Valid → s.port.rst = false → s.timingFault = none → s.seqState = .busy → s.sub = .low →
    ¬ (s.bitIdx.val = 0 ∧ s.byteIdx = s.cfg.rowBytes - 1) →
    ∃ t, step s = .next t ∧ t.seqState = .busy ∧ t.sub = .setUp ∧ t.sclk = s.sclk ∧ t.rowaddr = s.rowaddr ∧
      t.buf = s.buf ∧
      (0 < s.bitIdx.val → t.bitIdx.val = s.bitIdx.val - 1 ∧ t.byteIdx = s.byteIdx ∧
        t.sin = (s.buf.read (rowKey s.rowaddr s.byteIdx)).getLsbD (s.bitIdx.val - 1)) ∧
      (s.bitIdx.val = 0 → t.byteIdx = s.byteIdx + 1 ∧ t.bitIdx.val = 7 ∧
        t.sin = (s.buf.read (rowKey s.rowaddr (s.byteIdx + 1))).getLsbD 7)

/-- R139: the shift ends by itself after the last tick of the last bit; `sin`, `sclk` and `rowaddr` keep their values;
a request present in that tick is not accepted in it but in the next, where the port is ready otherwise. -/
def Obligations.SequencerEndsAfterTheLastBit : Prop :=
  ∀ s : State, s.cfg.Valid → s.port.rst = false → s.timingFault = none → s.seqState = .busy → s.sub = .low →
    s.bitIdx.val = 0 → s.byteIdx = s.cfg.rowBytes - 1 →
    s.accept = false ∧
    ∃ t, step s = .next t ∧ t.seqState = .idle ∧ t.byteIdx = 0 ∧ t.bitIdx.val = 7 ∧ t.sub = .setUp ∧ t.sin = s.sin ∧
      t.sclk = s.sclk ∧ t.rowaddr = s.rowaddr ∧ (t.cmdReady = true ↔ t.accept = false) ∧
      (s.evtReq = true → s.evtEn = true → t.accept = true)

/-- Idle levels (R142): no clock pulse outside a shift, and `SIN` and `ROWADDR` keep their last values in every tick
that neither resets nor accepts an event. -/
def Obligations.IdleLinesHoldTheirLevels : Prop :=
  ∀ s t : State, Inv s → s.seqState = .idle → step s = .next t → s.port.rst = false → s.accept = false →
    s.sclk = false ∧ t.sclk = false ∧ t.sin = s.sin ∧ t.rowaddr = s.rowaddr ∧ t.seqState = .idle

/-- Between an accepted `EVT_OFF` and the next `EVT_ON` no shift starts (R52): while events are off a tick without
reset never makes an idle sequencer busy; and in a tick without reset only a taken `EVT_ON` turns events on and only a
taken `EVT_OFF` turns them off (R19, R131, R132). -/
def Obligations.NoShiftStartsWhileEventsAreOff : Prop :=
  ∀ s t : State, step s = .next t → s.port.rst = false →
    (s.evtEn = false → (t.seqState = .busy → s.seqState = .busy) ∧
      (t.evtEn = true ↔ s.cmdTaken = true ∧ s.command = .evtOn)) ∧
    (s.evtEn = true → (t.evtEn = false ↔ s.cmdTaken = true ∧ s.command = .evtOff))

/-- The wire stream of one execution (R143): an event accepted `d` ticks after it fired, `d` at most `SLACK`, puts the
selected row on `SIN` bit by bit, three ticks a bit, `SCLK` high in the middle one, `ROWADDR` still and the port not
ready throughout, the buffer unchanged, and leaves the sequencer idle after `SHIFT_TICKS` busy ticks. -/
def Obligations.ShiftPutsTheWholeRowOnTheWire : Prop :=
  ∀ (s : State) (d : Nat), AcceptsAfter s d → d ≤ s.cfg.slack →
    (∀ n < s.cfg.rowBits, ∀ k < 3, ∃ t, after (1 + 3 * n + k) s = some t ∧ t.seqState = .busy ∧
      t.rowaddr = s.nextRow ∧ t.sin = (s.buf.read (rowKey s.nextRow (n / 8))).getLsbD (7 - n % 8) ∧
      (t.sclk = true ↔ k = 1) ∧ t.buf = s.buf ∧ t.cmdReady = false) ∧
    ∃ t, after (1 + s.cfg.shiftTicks) s = some t ∧ t.seqState = .idle ∧ t.buf = s.buf ∧ t.rowaddr = s.nextRow

/-- The bound of R186, for an event accepted before the next latch pulse begins: its shift raises no `TimingViolation`
if and only if it was accepted at most `SLACK` ticks after it fired (the restriction to the time before that latch is
the model's reading, log entry 20). -/
def Obligations.SlackIsTheExactBound : Prop :=
  ∀ (s : State) (d : Nat), AcceptsAfter s d → s.cfg.eventPhase + d < s.cfg.pBlank + s.cfg.latchStart →
    ((after (1 + s.cfg.shiftTicks) s).isSome = true ↔ d ≤ s.cfg.slack)

/-- With a valid configuration and events on throughout no `TimingViolation` can occur (R147, R163): under calm inputs
a machine that is on time completes every tick and stays on time, `evt_pend` never 1. -/
def Obligations.CalmMachineNeverFaults : Prop :=
  ∀ (s : State) (n : Nat), Inv s → OnTime s → s.calm = true →
    ∃ t, after n s = some t ∧ Inv t ∧ OnTime t

/-- The steady state (R147): after a `START` with events on and calm inputs, event `k` is accepted exactly in the tick
`EVENT_PHASE + k * P_BLANK` of the running generator, it shifts row `k mod ROW_COUNT`, the sequencer is busy in the
next `SHIFT_TICKS` ticks, and the latch pulse of the next period finds it idle with that row on `ROWADDR`. -/
def Obligations.SteadyStateShiftsAndLatchesEveryRow : Prop :=
  ∀ s : State, Starting s → s.calm = true →
    (∀ n t, after n s = some t → (t.accept = true ↔ ∃ k, n = 1 + s.cfg.eventPhase + k * s.cfg.pBlank)) ∧
    ∀ k : Nat,
      (∃ t, after (1 + s.cfg.eventPhase + k * s.cfg.pBlank) s = some t ∧ t.nextRow = k % s.cfg.rowCount) ∧
      (∀ j, 1 ≤ j → j ≤ s.cfg.shiftTicks → ∃ t, after (1 + s.cfg.eventPhase + k * s.cfg.pBlank + j) s = some t ∧
        t.seqState = .busy ∧ t.rowaddr = k % s.cfg.rowCount) ∧
      (∀ j < s.cfg.latchDuty, ∃ t, after (1 + (k + 1) * s.cfg.pBlank + s.cfg.latchStart + j) s = some t ∧
        t.xlat = true ∧ t.seqState = .idle ∧ t.rowaddr = k % s.cfg.rowCount)

/-- No starvation (R148): under the same conditions row `r` is selected by events `r`, `r + ROW_COUNT`,
`r + 2 * ROW_COUNT` and so on, exactly once every `ROW_COUNT * P_BLANK` ticks. -/
def Obligations.NoRowIsStarved : Prop :=
  ∀ (s : State) (r n : Nat), Starting s → s.calm = true → r < s.cfg.rowCount →
    ((∃ t, after n s = some t ∧ t.accept = true ∧ t.nextRow = r) ↔
      ∃ j, n = 1 + s.cfg.eventPhase + (r + j * s.cfg.rowCount) * s.cfg.pBlank)

/-- The host's wait is bounded (R69, R70, R188): from a machine on time, a command a host keeps presenting, any that
completes, `STOP` and `EVT_OFF` among them, is taken within `SHIFT_TICKS + 2` ticks and has its effect then; one that
breaks a range or is reserved ends the call; and a `GET` so called returns what the buffer held when the call began. -/
def Obligations.HostCallsAreServedInTime : Prop :=
  (∀ (s : State) (w : Word), Inv s → OnTime s →
    ((∃ t, exec (decodeWord w) s = .next t) ↔ ∃ t, callUntilTaken w (s.cfg.shiftTicks + 2) s = some t) ∧
    ∀ t, callUntilTaken w (s.cfg.shiftTicks + 2) s = some t →
      ∃ n u u1, n ≤ s.cfg.shiftTicks + 1 ∧ afterPresenting w n s = some u ∧ (u.present w).cmdTaken = true ∧
        u.buf = s.buf ∧ exec (decodeWord w) (u.present w) = .next u1 ∧ t = (u.present w).finishTick u1) ∧
  (∀ (s : State) (r c : Nat), Inv s → OnTime s → r < s.cfg.rowCount → c < s.cfg.nCh →
    callGet r c (s.cfg.shiftTicks + 2) s = some (readChannel s.cfg s.buf r c))
end

