-- ==== Sys2Proof/Laws/Decode.lean ====
section
/-! SUPPORT. The fields of a word written in format C. -/

namespace Sys2Proof

theorem formatC_toNat (op : BitVec 4) (r c : Nat) (v : Gray) :
    (formatC op r c v).toNat = op.toNat * 2 ^ 28 + r % 256 * 2 ^ 20 + c % 256 * 2 ^ 12 + v.toNat := by
  have hv := v.isLt
  have ho := op.isLt
  have hc : c % 2 ^ 8 < 2 ^ 8 := Nat.mod_lt _ (by decide)
  have hr : r % 2 ^ 8 < 2 ^ 8 := Nat.mod_lt _ (by decide)
  unfold formatC
  simp only [BitVec.toNat_append, BitVec.toNat_ofNat]
  rw [← Nat.shiftLeft_add_eq_or_of_lt hv, ← Nat.shiftLeft_add_eq_or_of_lt hc, ← Nat.shiftLeft_add_eq_or_of_lt hr]
  simp only [Nat.shiftLeft_eq]
  omega

@[simp] theorem opField_formatC (op : BitVec 4) (r c : Nat) (v : Gray) : opField (formatC op r c v) = op := by
  have hv := v.isLt
  have ho := op.isLt
  apply BitVec.eq_of_toNat_eq
  simp only [opField, BitVec.extractLsb'_toNat, formatC_toNat, Nat.shiftRight_eq_div_pow]
  omega

@[simp] theorem rowField_formatC (op : BitVec 4) (r c : Nat) (v : Gray) : rowField (formatC op r c v) = r % 256 := by
  have hv := v.isLt
  have ho := op.isLt
  simp only [rowField, BitVec.extractLsb'_toNat, formatC_toNat, Nat.shiftRight_eq_div_pow]
  omega

@[simp] theorem channelField_formatC (op : BitVec 4) (r c : Nat) (v : Gray) :
    channelField (formatC op r c v) = c % 256 := by
  have hv := v.isLt
  have ho := op.isLt
  simp only [channelField, BitVec.extractLsb'_toNat, formatC_toNat, Nat.shiftRight_eq_div_pow]
  omega

@[simp] theorem valueField_formatC (op : BitVec 4) (r c : Nat) (v : Gray) : valueField (formatC op r c v) = v := by
  have hv := v.isLt
  apply BitVec.eq_of_toNat_eq
  simp only [valueField, BitVec.extractLsb'_toNat, formatC_toNat, Nat.shiftRight_eq_div_pow]
  omega

end Sys2Proof
end

