-- ==== Sys2Proof/Laws/Memory.lean ====
section
/-! SUPPORT. What the operations over the buffer can do: reading after writing, the canonical form and the RowSet
kept by every operation, and equality of canonical buffers by their bytes. -/

namespace Sys2Proof.Machine

/-! ### Keys -/

theorem rowKey_div {r i : Nat} (h : i < rowStride) : rowKey r i / rowStride = r := by
  unfold rowKey rowStride at *; omega

theorem rowKey_mod {r i : Nat} (h : i < rowStride) : rowKey r i % rowStride = i := by
  unfold rowKey rowStride at *; omega

/-- Distinct places of the RowSet have distinct keys. -/
theorem rowKey_inj {r i r' i' : Nat} (h : i < rowStride) (h' : i' < rowStride) :
    rowKey r i = rowKey r' i' ↔ r = r' ∧ i = i' := by
  unfold rowKey rowStride at *; omega

theorem rowBytes_le_stride {c : Cfg} (h : c.Valid) : c.rowBytes < rowStride := by
  have := h.1.2.2.2
  unfold Cfg.rowBytes rowStride; omega

/-! ### One byte -/

@[simp] theorem read_nil (a : Nat) : Memory.read [] a = Config.unwrittenByte := rfl

theorem read_cons (b : Nat) (w : Byte) (m : Memory) (a : Nat) :
    Memory.read ((b, w) :: m) a = if a = b then w else Memory.read m a := rfl

theorem wf_tail {x : Host.Cell} {m : Memory} (h : Memory.wf (x :: m)) : Memory.wf m :=
  ⟨(List.pairwise_cons.mp h.1).2, fun y hy => h.2 y (List.mem_cons_of_mem x hy)⟩

/-- A key below every listed one reads as unwritten. -/
theorem read_of_lt_all {m : Memory} {a : Nat} (h : ∀ x ∈ m, a < x.1) : m.read a = Config.unwrittenByte := by
  induction m with
  | nil => rfl
  | cons x m ih =>
    have hx := h x List.mem_cons_self
    rw [read_cons, if_neg (by omega)]
    exact ih fun y hy => h y (List.mem_cons_of_mem x hy)

theorem wf_head_lt {x : Host.Cell} {m : Memory} (h : Memory.wf (x :: m)) : ∀ y ∈ m, x.1 < y.1 :=
  (List.pairwise_cons.mp h.1).1

/-- A write leaves every other byte alone. -/
theorem read_write_ne {a x : Nat} (v : Byte) (h : x ≠ a) (m : Memory) : (m.write a v).read x = m.read x := by
  induction m with
  | nil => unfold Memory.write; split <;> simp [read_cons, h]
  | cons c m ih =>
    obtain ⟨b, w⟩ := c
    unfold Memory.write
    split
    · split <;> simp [read_cons, h]
    · split
      · next hab => subst hab; split <;> simp [read_cons, h]
      · simp [read_cons, ih]

/-- A read of the byte just written gives the value written. -/
theorem read_write_same {m : Memory} (hm : m.wf) (a : Nat) (v : Byte) : (m.write a v).read a = v := by
  induction m with
  | nil => unfold Memory.write; split <;> simp_all [read_cons]
  | cons c m ih =>
    obtain ⟨b, w⟩ := c
    have hlt := wf_head_lt hm
    unfold Memory.write
    split
    · next hab =>
      split
      · next hv =>
        rw [hv]
        refine read_of_lt_all fun x hx => ?_
        rcases List.mem_cons.mp hx with rfl | hx
        · exact hab
        · exact Nat.lt_trans hab (hlt x hx)
      · simp [read_cons]
    · split
      · next hab =>
        subst hab
        split
        · next hv => rw [hv]; exact read_of_lt_all hlt
        · simp [read_cons]
      · next hab => simp [read_cons, hab, ih (wf_tail hm)]

theorem read_write {m : Memory} (hm : m.wf) (a x : Nat) (v : Byte) :
    (m.write a v).read x = if x = a then v else m.read x := by
  split
  · next h => rw [h, read_write_same hm]
  · next h => exact read_write_ne v h m

/-- What a write can list. -/
theorem mem_write {m : Memory} {a : Nat} {v : Byte} {x : Host.Cell} (h : x ∈ m.write a v) :
    (x = (a, v) ∧ v ≠ Config.unwrittenByte) ∨ x ∈ m := by
  induction m with
  | nil =>
    unfold Memory.write at h
    split at h
    · simp at h
    · simp at h; exact .inl ⟨h, by assumption⟩
  | cons c m ih =>
    obtain ⟨b, w⟩ := c
    unfold Memory.write at h
    split at h
    · split at h
      · exact .inr h
      · rcases List.mem_cons.mp h with rfl | h
        · exact .inl ⟨rfl, by assumption⟩
        · exact .inr h
    · split at h
      · split at h
        · exact .inr (List.mem_cons_of_mem _ h)
        · rcases List.mem_cons.mp h with rfl | h
          · exact .inl ⟨rfl, by assumption⟩
          · exact .inr (List.mem_cons_of_mem _ h)
      · rcases List.mem_cons.mp h with rfl | h
        · exact .inr List.mem_cons_self
        · exact (ih h).imp id (List.mem_cons_of_mem _)

/-- A write keeps the canonical form. -/
theorem write_wf {m : Memory} (hm : m.wf) (a : Nat) (v : Byte) : (m.write a v).wf := by
  refine ⟨?_, fun x hx => ?_⟩
  · induction m with
    | nil => unfold Memory.write; split <;> simp
    | cons c m ih =>
      obtain ⟨b, w⟩ := c
      have hlt := wf_head_lt hm
      unfold Memory.write
      split
      · next hab =>
        split
        · exact hm.1
        · refine List.pairwise_cons.mpr ⟨fun x hx => ?_, hm.1⟩
          rcases List.mem_cons.mp hx with rfl | hx
          · exact hab
          · exact Nat.lt_trans hab (hlt x hx)
      · split
        · next hab =>
          subst hab
          split
          · exact (wf_tail hm).1
          · exact List.pairwise_cons.mpr ⟨hlt, (wf_tail hm).1⟩
        · refine List.pairwise_cons.mpr ⟨fun x hx => ?_, ih (wf_tail hm)⟩
          rcases mem_write hx with ⟨rfl, -⟩ | hx
          · simp only; omega
          · exact hlt x hx
  · rcases mem_write hx with ⟨rfl, hv⟩ | hx
    · exact hv
    · exact hm.2 x hx

theorem write_inRowSet {c : Cfg} {m : Memory} (hm : m.inRowSet c) {r i : Nat} (hr : r < c.rowCount)
    (hi : i < c.rowBytes) (hs : c.rowBytes < rowStride) (v : Byte) : (m.write (rowKey r i) v).inRowSet c := by
  intro x hx
  rcases mem_write hx with ⟨rfl, -⟩ | hx
  · have hi' : i < rowStride := Nat.lt_trans hi hs
    simp only [rowKey_div hi', rowKey_mod hi']
    exact ⟨hr, hi⟩
  · exact hm x hx

/-- Canonical buffers that read alike are equal. -/
theorem eq_of_read_eq {m m' : Memory} (hm : m.wf) (hm' : m'.wf) (h : ∀ a, m.read a = m'.read a) : m = m' := by
  induction m generalizing m' with
  | nil =>
    cases m' with
    | nil => rfl
    | cons y m' =>
      have := h y.1
      rw [read_nil, read_cons y.1 y.2, if_pos rfl] at this
      exact absurd this.symm (hm'.2 y List.mem_cons_self)
  | cons x m ih =>
    have hx := h x.1
    rw [read_cons x.1 x.2, if_pos rfl] at hx
    cases m' with
    | nil => exact absurd hx (hm.2 x List.mem_cons_self)
    | cons y m' =>
      have hy := h y.1
      rw [read_cons y.1 y.2 m', if_pos rfl] at hy
      have hkey : x.1 = y.1 := by
        rcases Nat.lt_trichotomy x.1 y.1 with hlt | heq | hgt
        · refine absurd ?_ (hm.2 x List.mem_cons_self)
          rw [hx]
          refine read_of_lt_all fun z hz => ?_
          rcases List.mem_cons.mp hz with rfl | hz
          · exact hlt
          · exact Nat.lt_trans hlt (wf_head_lt hm' z hz)
        · exact heq
        · refine absurd ?_ (hm'.2 y List.mem_cons_self)
          rw [← hy]
          refine read_of_lt_all fun z hz => ?_
          rcases List.mem_cons.mp hz with rfl | hz
          · exact hgt
          · exact Nat.lt_trans hgt (wf_head_lt hm z hz)
      have hval : x.2 = y.2 := by rw [hx, hkey, read_cons y.1 y.2, if_pos rfl]
      have hxy : x = y := Prod.ext hkey hval
      subst hxy
      congr 1
      refine ih (wf_tail hm) (wf_tail hm') fun a => ?_
      by_cases ha : a = x.1
      · subst ha
        rw [read_of_lt_all (wf_head_lt hm), read_of_lt_all (wf_head_lt hm')]
      · have := h a
        rwa [read_cons x.1 x.2, read_cons x.1 x.2, if_neg ha, if_neg ha] at this

/-! ### Bytes of rows -/

/-- Reading a byte of the RowSet after storing one. -/
theorem memRead1_memWrite1 {m : Memory} (hm : m.wf) {r i r' i' : Nat} (hi : i < rowStride) (hi' : i' < rowStride)
    (v : Byte) : memRead1 (memWrite1 m r i v) r' i' = if r' = r ∧ i' = i then v else memRead1 m r' i' := by
  unfold memRead1 memWrite1
  rw [read_write hm]
  simp only [rowKey_inj hi' hi]

theorem memWrite1_wf {m : Memory} (hm : m.wf) (r i : Nat) (v : Byte) : (memWrite1 m r i v).wf := write_wf hm _ _

theorem memWrite2_wf {m : Memory} (hm : m.wf) (r i : Nat) (v : BitVec 16) : (memWrite2 m r i v).wf :=
  write_wf (write_wf hm _ _) _ _

theorem writeChannel_wf {m : Memory} (hm : m.wf) (c : Cfg) (r ch : Nat) (v : Gray) : (writeChannel c m r ch v).wf :=
  memWrite2_wf hm _ _ _

/-- Reading a byte of the RowSet after storing two. -/
theorem memRead1_memWrite2 {m : Memory} (hm : m.wf) {r i r' i' : Nat} (hi : i + 1 < rowStride) (hi' : i' < rowStride)
    (v : BitVec 16) : memRead1 (memWrite2 m r i v) r' i' =
      if r' = r ∧ i' = i then v.extractLsb' 8 8 else if r' = r ∧ i' = i + 1 then v.extractLsb' 0 8
      else memRead1 m r' i' := by
  unfold memWrite2
  rw [memRead1_memWrite1 (memWrite1_wf hm _ _ _) hi hi', memRead1_memWrite1 hm (by omega) hi']
  split_ifs <;> first | rfl | omega

theorem fillRow_wf {m : Memory} (hm : m.wf) (r : Nat) (f : Nat → Byte) (n : Nat) : (fillRow m r f n).wf := by
  induction n with
  | zero => exact hm
  | succ n ih => exact write_wf ih _ _

theorem fillRows_wf {m : Memory} (hm : m.wf) (f : Nat → Byte) (n k : Nat) : (fillRows m f n k).wf := by
  induction k with
  | zero => exact hm
  | succ k ih => exact fillRow_wf ih _ _ _

/-- What a filled row reads as. -/
theorem memRead1_fillRow {m : Memory} (hm : m.wf) {r n r' i' : Nat} (f : Nat → Byte) (hn : n ≤ rowStride)
    (hi' : i' < rowStride) :
    memRead1 (fillRow m r f n) r' i' = if r' = r ∧ i' < n then f i' else memRead1 m r' i' := by
  induction n with
  | zero => simp [fillRow]
  | succ n ih =>
    rw [fillRow, memRead1_memWrite1 (fillRow_wf hm _ _ _) (by omega) hi', ih (by omega)]
    split_ifs with h1 h2 h3
    · rw [h1.2]
    · omega
    · rfl
    · omega
    · omega
    · rfl

/-- What the filled rows read as. -/
theorem memRead1_fillRows {m : Memory} (hm : m.wf) {n k r' i' : Nat} (f : Nat → Byte) (hn : n ≤ rowStride)
    (hi' : i' < rowStride) :
    memRead1 (fillRows m f n k) r' i' = if r' < k ∧ i' < n then f i' else memRead1 m r' i' := by
  induction k with
  | zero => simp [fillRows]
  | succ k ih =>
    rw [fillRows, memRead1_fillRow (fillRows_wf hm _ _ _) f hn hi', ih]
    split_ifs <;> first | rfl | omega

theorem fillRow_inRowSet {c : Cfg} {m : Memory} (hm : m.inRowSet c) (hs : c.rowBytes < rowStride) {r : Nat}
    (hr : r < c.rowCount) (f : Nat → Byte) {n : Nat} (hn : n ≤ c.rowBytes) : (fillRow m r f n).inRowSet c := by
  induction n with
  | zero => exact hm
  | succ n ih => exact write_inRowSet (ih (by omega)) hr (by omega) hs _

theorem fillRows_inRowSet {c : Cfg} {m : Memory} (hm : m.inRowSet c) (hs : c.rowBytes < rowStride)
    (f : Nat → Byte) {n k : Nat} (hn : n ≤ c.rowBytes) (hk : k ≤ c.rowCount) : (fillRows m f n k).inRowSet c := by
  induction k with
  | zero => exact hm
  | succ k ih => exact fillRow_inRowSet (ih (by omega)) hs (by omega) f hn

/-! ### Channels -/

/-- The two bytes of a channel lie inside its row (R44). -/
theorem bytePos_lt {c : Cfg} {ch : Nat} (h : ch < c.nCh) : bytePos c ch + 1 < c.rowBytes := by
  unfold bytePos chanIdx Cfg.nCh Cfg.rowBytes at *
  omega

theorem writeChannel_inRowSet {c : Cfg} {m : Memory} (hm : m.inRowSet c) (hs : c.rowBytes < rowStride) {r ch : Nat}
    (hr : r < c.rowCount) (hc : ch < c.nCh) (v : Gray) : (writeChannel c m r ch v).inRowSet c :=
  have hb := bytePos_lt hc
  write_inRowSet (write_inRowSet hm hr (by omega) hs _) hr hb hs _

/-- Bit `i` of two fields side by side, the widths written out as the operand forms use them. -/
theorem getLsbD_append_4_12 (x : BitVec 4) (v : BitVec 12) (i : Nat) :
    BitVec.getLsbD (x ++ v : BitVec 16) i = if i < 12 then v.getLsbD i else x.getLsbD (i - 12) := by
  exact BitVec.getLsbD_append.trans (by split <;> simp_all)

theorem getLsbD_append_12_4 (v : BitVec 12) (x : BitVec 4) (i : Nat) :
    BitVec.getLsbD (v ++ x : BitVec 16) i = if i < 4 then x.getLsbD i else v.getLsbD (i - 4) := by
  exact BitVec.getLsbD_append.trans (by split <;> simp_all)

theorem getLsbD_append_8_8 (x y : BitVec 8) (i : Nat) :
    BitVec.getLsbD (x ++ y : BitVec 16) i = if i < 8 then y.getLsbD i else x.getLsbD (i - 8) := by
  exact BitVec.getLsbD_append.trans (by split <;> simp_all)

/-- What a window gives back after a value was put into it. -/
theorem windowValue_windowInsert (mid : Bool) (w : BitVec 16) (v : Gray) :
    windowValue mid (windowInsert mid w v) = v := by
  apply BitVec.eq_of_getLsbD_eq
  intro i hi
  cases mid <;>
    simp [windowValue, windowInsert, getLsbD_append_4_12, getLsbD_append_12_4, hi]

/-- Every bit of the window that is not the channel's keeps its value (R85). -/
theorem windowInsert_keeps (mid : Bool) (w : BitVec 16) (v : Gray) (i : Nat) (hi : i < 16)
    (h : if mid then 12 ≤ i else i < 4) : (windowInsert mid w v).getLsbD i = w.getLsbD i := by
  cases mid
  · simp at h
    simp [windowInsert, getLsbD_append_12_4, h]
  · simp at h
    simp [windowInsert, getLsbD_append_4_12, h, show ¬ i < 12 by omega]
    omega

end Sys2Proof.Machine
end

