-- ==== Sys2Proof/Laws/State.lean ====
section
/-! SUPPORT. One lemma per field per update of State, so that no later proof unfolds a record update, and the signals
of Machine/Flags.lean that an update does not touch. -/

namespace Sys2Proof.Machine

/-! ### `dropRvalid` -/

@[simp] theorem State.dropRvalid_cfg (s : State) : (s.dropRvalid).cfg = s.cfg := rfl
@[simp] theorem State.dropRvalid_buf (s : State) : (s.dropRvalid).buf = s.buf := rfl
@[simp] theorem State.dropRvalid_run (s : State) : (s.dropRvalid).run = s.run := rfl
@[simp] theorem State.dropRvalid_blPhase (s : State) : (s.dropRvalid).blPhase = s.blPhase := rfl
@[simp] theorem State.dropRvalid_gsPhase (s : State) : (s.dropRvalid).gsPhase = s.gsPhase := rfl
@[simp] theorem State.dropRvalid_evtEn (s : State) : (s.dropRvalid).evtEn = s.evtEn := rfl
@[simp] theorem State.dropRvalid_evtPend (s : State) : (s.dropRvalid).evtPend = s.evtPend := rfl
@[simp] theorem State.dropRvalid_seqState (s : State) : (s.dropRvalid).seqState = s.seqState := rfl
@[simp] theorem State.dropRvalid_nextRow (s : State) : (s.dropRvalid).nextRow = s.nextRow := rfl
@[simp] theorem State.dropRvalid_rowaddr (s : State) : (s.dropRvalid).rowaddr = s.rowaddr := rfl
@[simp] theorem State.dropRvalid_byteIdx (s : State) : (s.dropRvalid).byteIdx = s.byteIdx := rfl
@[simp] theorem State.dropRvalid_bitIdx (s : State) : (s.dropRvalid).bitIdx = s.bitIdx := rfl
@[simp] theorem State.dropRvalid_sub (s : State) : (s.dropRvalid).sub = s.sub := rfl
@[simp] theorem State.dropRvalid_sin (s : State) : (s.dropRvalid).sin = s.sin := rfl
@[simp] theorem State.dropRvalid_sclk (s : State) : (s.dropRvalid).sclk = s.sclk := rfl
@[simp] theorem State.dropRvalid_rdata (s : State) : (s.dropRvalid).rdata = s.rdata := rfl
@[simp] theorem State.dropRvalid_rvalid (s : State) : (s.dropRvalid).rvalid = false := rfl
@[simp] theorem State.dropRvalid_port (s : State) : (s.dropRvalid).port = s.port := rfl
@[simp] theorem State.dropRvalid_script (s : State) : (s.dropRvalid).script = s.script := rfl
@[simp] theorem State.dropRvalid_tick (s : State) : (s.dropRvalid).tick = s.tick := rfl

/-! ### `takeEvent` -/

@[simp] theorem State.takeEvent_cfg (s : State) : (s.takeEvent).cfg = s.cfg := rfl
@[simp] theorem State.takeEvent_buf (s : State) : (s.takeEvent).buf = s.buf := rfl
@[simp] theorem State.takeEvent_run (s : State) : (s.takeEvent).run = s.run := rfl
@[simp] theorem State.takeEvent_blPhase (s : State) : (s.takeEvent).blPhase = s.blPhase := rfl
@[simp] theorem State.takeEvent_gsPhase (s : State) : (s.takeEvent).gsPhase = s.gsPhase := rfl
@[simp] theorem State.takeEvent_evtEn (s : State) : (s.takeEvent).evtEn = s.evtEn := rfl
@[simp] theorem State.takeEvent_evtPend (s : State) : (s.takeEvent).evtPend = s.evtPend := rfl
@[simp] theorem State.takeEvent_seqState (s : State) : (s.takeEvent).seqState = .busy := rfl
@[simp] theorem State.takeEvent_nextRow (s : State) : (s.takeEvent).nextRow = (s.nextRow + 1) % s.cfg.rowCount := rfl
@[simp] theorem State.takeEvent_rowaddr (s : State) : (s.takeEvent).rowaddr = s.nextRow := rfl
@[simp] theorem State.takeEvent_byteIdx (s : State) : (s.takeEvent).byteIdx = 0 := rfl
@[simp] theorem State.takeEvent_bitIdx (s : State) : (s.takeEvent).bitIdx = 7 := rfl
@[simp] theorem State.takeEvent_sub (s : State) : (s.takeEvent).sub = .setUp := rfl
@[simp] theorem State.takeEvent_sin (s : State) : (s.takeEvent).sin = memBit s.buf s.nextRow 0 7 := rfl
@[simp] theorem State.takeEvent_sclk (s : State) : (s.takeEvent).sclk = false := rfl
@[simp] theorem State.takeEvent_rdata (s : State) : (s.takeEvent).rdata = s.rdata := rfl
@[simp] theorem State.takeEvent_rvalid (s : State) : (s.takeEvent).rvalid = s.rvalid := rfl
@[simp] theorem State.takeEvent_port (s : State) : (s.takeEvent).port = s.port := rfl
@[simp] theorem State.takeEvent_script (s : State) : (s.takeEvent).script = s.script := rfl
@[simp] theorem State.takeEvent_tick (s : State) : (s.takeEvent).tick = s.tick := rfl

/-! ### `endShift` -/

@[simp] theorem State.endShift_cfg (s : State) : (s.endShift).cfg = s.cfg := rfl
@[simp] theorem State.endShift_buf (s : State) : (s.endShift).buf = s.buf := rfl
@[simp] theorem State.endShift_run (s : State) : (s.endShift).run = s.run := rfl
@[simp] theorem State.endShift_blPhase (s : State) : (s.endShift).blPhase = s.blPhase := rfl
@[simp] theorem State.endShift_gsPhase (s : State) : (s.endShift).gsPhase = s.gsPhase := rfl
@[simp] theorem State.endShift_evtEn (s : State) : (s.endShift).evtEn = s.evtEn := rfl
@[simp] theorem State.endShift_evtPend (s : State) : (s.endShift).evtPend = s.evtPend := rfl
@[simp] theorem State.endShift_seqState (s : State) : (s.endShift).seqState = .idle := rfl
@[simp] theorem State.endShift_nextRow (s : State) : (s.endShift).nextRow = s.nextRow := rfl
@[simp] theorem State.endShift_rowaddr (s : State) : (s.endShift).rowaddr = s.rowaddr := rfl
@[simp] theorem State.endShift_byteIdx (s : State) : (s.endShift).byteIdx = 0 := rfl
@[simp] theorem State.endShift_bitIdx (s : State) : (s.endShift).bitIdx = 7 := rfl
@[simp] theorem State.endShift_sub (s : State) : (s.endShift).sub = .setUp := rfl
@[simp] theorem State.endShift_sin (s : State) : (s.endShift).sin = s.sin := rfl
@[simp] theorem State.endShift_sclk (s : State) : (s.endShift).sclk = s.sclk := rfl
@[simp] theorem State.endShift_rdata (s : State) : (s.endShift).rdata = s.rdata := rfl
@[simp] theorem State.endShift_rvalid (s : State) : (s.endShift).rvalid = s.rvalid := rfl
@[simp] theorem State.endShift_port (s : State) : (s.endShift).port = s.port := rfl
@[simp] theorem State.endShift_script (s : State) : (s.endShift).script = s.script := rfl
@[simp] theorem State.endShift_tick (s : State) : (s.endShift).tick = s.tick := rfl

/-! ### `bookEvent` -/

@[simp] theorem State.bookEvent_cfg (s : State) (req acc stop : Bool) : (s.bookEvent req acc stop).cfg = s.cfg := rfl
@[simp] theorem State.bookEvent_buf (s : State) (req acc stop : Bool) : (s.bookEvent req acc stop).buf = s.buf := rfl
@[simp] theorem State.bookEvent_run (s : State) (req acc stop : Bool) : (s.bookEvent req acc stop).run = s.run := rfl
@[simp] theorem State.bookEvent_blPhase (s : State) (req acc stop : Bool) : (s.bookEvent req acc stop).blPhase = s.blPhase := rfl
@[simp] theorem State.bookEvent_gsPhase (s : State) (req acc stop : Bool) : (s.bookEvent req acc stop).gsPhase = s.gsPhase := rfl
@[simp] theorem State.bookEvent_evtEn (s : State) (req acc stop : Bool) : (s.bookEvent req acc stop).evtEn = s.evtEn := rfl
@[simp] theorem State.bookEvent_evtPend (s : State) (req acc stop : Bool) : (s.bookEvent req acc stop).evtPend = (if stop then false else req && !acc) := rfl
@[simp] theorem State.bookEvent_seqState (s : State) (req acc stop : Bool) : (s.bookEvent req acc stop).seqState = s.seqState := rfl
@[simp] theorem State.bookEvent_nextRow (s : State) (req acc stop : Bool) : (s.bookEvent req acc stop).nextRow = s.nextRow := rfl
@[simp] theorem State.bookEvent_rowaddr (s : State) (req acc stop : Bool) : (s.bookEvent req acc stop).rowaddr = s.rowaddr := rfl
@[simp] theorem State.bookEvent_byteIdx (s : State) (req acc stop : Bool) : (s.bookEvent req acc stop).byteIdx = s.byteIdx := rfl
@[simp] theorem State.bookEvent_bitIdx (s : State) (req acc stop : Bool) : (s.bookEvent req acc stop).bitIdx = s.bitIdx := rfl
@[simp] theorem State.bookEvent_sub (s : State) (req acc stop : Bool) : (s.bookEvent req acc stop).sub = s.sub := rfl
@[simp] theorem State.bookEvent_sin (s : State) (req acc stop : Bool) : (s.bookEvent req acc stop).sin = s.sin := rfl
@[simp] theorem State.bookEvent_sclk (s : State) (req acc stop : Bool) : (s.bookEvent req acc stop).sclk = s.sclk := rfl
@[simp] theorem State.bookEvent_rdata (s : State) (req acc stop : Bool) : (s.bookEvent req acc stop).rdata = s.rdata := rfl
@[simp] theorem State.bookEvent_rvalid (s : State) (req acc stop : Bool) : (s.bookEvent req acc stop).rvalid = s.rvalid := rfl
@[simp] theorem State.bookEvent_port (s : State) (req acc stop : Bool) : (s.bookEvent req acc stop).port = s.port := rfl
@[simp] theorem State.bookEvent_script (s : State) (req acc stop : Bool) : (s.bookEvent req acc stop).script = s.script := rfl
@[simp] theorem State.bookEvent_tick (s : State) (req acc stop : Bool) : (s.bookEvent req acc stop).tick = s.tick := rfl

/-! ### `applyReset` -/

@[simp] theorem State.applyReset_cfg (s : State) : (s.applyReset).cfg = s.cfg := rfl
@[simp] theorem State.applyReset_buf (s : State) : (s.applyReset).buf = s.buf := rfl
@[simp] theorem State.applyReset_run (s : State) : (s.applyReset).run = false := rfl
@[simp] theorem State.applyReset_blPhase (s : State) : (s.applyReset).blPhase = 0 := rfl
@[simp] theorem State.applyReset_gsPhase (s : State) : (s.applyReset).gsPhase = 0 := rfl
@[simp] theorem State.applyReset_evtEn (s : State) : (s.applyReset).evtEn = true := rfl
@[simp] theorem State.applyReset_evtPend (s : State) : (s.applyReset).evtPend = false := rfl
@[simp] theorem State.applyReset_seqState (s : State) : (s.applyReset).seqState = .idle := rfl
@[simp] theorem State.applyReset_nextRow (s : State) : (s.applyReset).nextRow = 0 := rfl
@[simp] theorem State.applyReset_rowaddr (s : State) : (s.applyReset).rowaddr = 0 := rfl
@[simp] theorem State.applyReset_byteIdx (s : State) : (s.applyReset).byteIdx = 0 := rfl
@[simp] theorem State.applyReset_bitIdx (s : State) : (s.applyReset).bitIdx = 7 := rfl
@[simp] theorem State.applyReset_sub (s : State) : (s.applyReset).sub = .setUp := rfl
@[simp] theorem State.applyReset_sin (s : State) : (s.applyReset).sin = false := rfl
@[simp] theorem State.applyReset_sclk (s : State) : (s.applyReset).sclk = false := rfl
@[simp] theorem State.applyReset_rdata (s : State) : (s.applyReset).rdata = 0#12 := rfl
@[simp] theorem State.applyReset_rvalid (s : State) : (s.applyReset).rvalid = false := rfl
@[simp] theorem State.applyReset_port (s : State) : (s.applyReset).port = s.port := rfl
@[simp] theorem State.applyReset_script (s : State) : (s.applyReset).script = s.script := rfl
@[simp] theorem State.applyReset_tick (s : State) : (s.applyReset).tick = s.tick := rfl

/-! ### `advancePort` -/

@[simp] theorem State.advancePort_cfg (s : State) : (s.advancePort).cfg = s.cfg := rfl
@[simp] theorem State.advancePort_buf (s : State) : (s.advancePort).buf = s.buf := rfl
@[simp] theorem State.advancePort_run (s : State) : (s.advancePort).run = s.run := rfl
@[simp] theorem State.advancePort_blPhase (s : State) : (s.advancePort).blPhase = s.blPhase := rfl
@[simp] theorem State.advancePort_gsPhase (s : State) : (s.advancePort).gsPhase = s.gsPhase := rfl
@[simp] theorem State.advancePort_evtEn (s : State) : (s.advancePort).evtEn = s.evtEn := rfl
@[simp] theorem State.advancePort_evtPend (s : State) : (s.advancePort).evtPend = s.evtPend := rfl
@[simp] theorem State.advancePort_seqState (s : State) : (s.advancePort).seqState = s.seqState := rfl
@[simp] theorem State.advancePort_nextRow (s : State) : (s.advancePort).nextRow = s.nextRow := rfl
@[simp] theorem State.advancePort_rowaddr (s : State) : (s.advancePort).rowaddr = s.rowaddr := rfl
@[simp] theorem State.advancePort_byteIdx (s : State) : (s.advancePort).byteIdx = s.byteIdx := rfl
@[simp] theorem State.advancePort_bitIdx (s : State) : (s.advancePort).bitIdx = s.bitIdx := rfl
@[simp] theorem State.advancePort_sub (s : State) : (s.advancePort).sub = s.sub := rfl
@[simp] theorem State.advancePort_sin (s : State) : (s.advancePort).sin = s.sin := rfl
@[simp] theorem State.advancePort_sclk (s : State) : (s.advancePort).sclk = s.sclk := rfl
@[simp] theorem State.advancePort_rdata (s : State) : (s.advancePort).rdata = s.rdata := rfl
@[simp] theorem State.advancePort_rvalid (s : State) : (s.advancePort).rvalid = s.rvalid := rfl
@[simp] theorem State.advancePort_port (s : State) : (s.advancePort).port = s.script.headD InPorts.idle := rfl
@[simp] theorem State.advancePort_script (s : State) : (s.advancePort).script = s.script.tail := rfl
@[simp] theorem State.advancePort_tick (s : State) : (s.advancePort).tick = s.tick + 1 := rfl

/-! ### `present` -/

@[simp] theorem State.present_cfg (s : State) (w : Word) : (s.present w).cfg = s.cfg := rfl
@[simp] theorem State.present_buf (s : State) (w : Word) : (s.present w).buf = s.buf := rfl
@[simp] theorem State.present_run (s : State) (w : Word) : (s.present w).run = s.run := rfl
@[simp] theorem State.present_blPhase (s : State) (w : Word) : (s.present w).blPhase = s.blPhase := rfl
@[simp] theorem State.present_gsPhase (s : State) (w : Word) : (s.present w).gsPhase = s.gsPhase := rfl
@[simp] theorem State.present_evtEn (s : State) (w : Word) : (s.present w).evtEn = s.evtEn := rfl
@[simp] theorem State.present_evtPend (s : State) (w : Word) : (s.present w).evtPend = s.evtPend := rfl
@[simp] theorem State.present_seqState (s : State) (w : Word) : (s.present w).seqState = s.seqState := rfl
@[simp] theorem State.present_nextRow (s : State) (w : Word) : (s.present w).nextRow = s.nextRow := rfl
@[simp] theorem State.present_rowaddr (s : State) (w : Word) : (s.present w).rowaddr = s.rowaddr := rfl
@[simp] theorem State.present_byteIdx (s : State) (w : Word) : (s.present w).byteIdx = s.byteIdx := rfl
@[simp] theorem State.present_bitIdx (s : State) (w : Word) : (s.present w).bitIdx = s.bitIdx := rfl
@[simp] theorem State.present_sub (s : State) (w : Word) : (s.present w).sub = s.sub := rfl
@[simp] theorem State.present_sin (s : State) (w : Word) : (s.present w).sin = s.sin := rfl
@[simp] theorem State.present_sclk (s : State) (w : Word) : (s.present w).sclk = s.sclk := rfl
@[simp] theorem State.present_rdata (s : State) (w : Word) : (s.present w).rdata = s.rdata := rfl
@[simp] theorem State.present_rvalid (s : State) (w : Word) : (s.present w).rvalid = s.rvalid := rfl
@[simp] theorem State.present_port (s : State) (w : Word) : (s.present w).port = { rst := false, cmdValid := true, cmd := w } := rfl
@[simp] theorem State.present_script (s : State) (w : Word) : (s.present w).script = s.script := rfl
@[simp] theorem State.present_tick (s : State) (w : Word) : (s.present w).tick = s.tick := rfl

/-! ### `advanceCounters` -/

@[simp] theorem State.advanceCounters_cfg (s : State) (run stop : Bool) : (s.advanceCounters run stop).cfg = s.cfg := by
  cases run <;> cases stop <;> rfl
@[simp] theorem State.advanceCounters_buf (s : State) (run stop : Bool) : (s.advanceCounters run stop).buf = s.buf := by
  cases run <;> cases stop <;> rfl
@[simp] theorem State.advanceCounters_run (s : State) (run stop : Bool) : (s.advanceCounters run stop).run = s.run := by
  cases run <;> cases stop <;> rfl
@[simp] theorem State.advanceCounters_blPhase (s : State) (run stop : Bool) : (s.advanceCounters run stop).blPhase = (if stop then 0 else if run then (s.blPhase + 1) % s.cfg.pBlank else 0) := by
  cases run <;> cases stop <;> rfl
@[simp] theorem State.advanceCounters_gsPhase (s : State) (run stop : Bool) : (s.advanceCounters run stop).gsPhase = (if stop then 0 else if run then (s.gsPhase + 1) % s.cfg.pGsclk else 0) := by
  cases run <;> cases stop <;> rfl
@[simp] theorem State.advanceCounters_evtEn (s : State) (run stop : Bool) : (s.advanceCounters run stop).evtEn = s.evtEn := by
  cases run <;> cases stop <;> rfl
@[simp] theorem State.advanceCounters_evtPend (s : State) (run stop : Bool) : (s.advanceCounters run stop).evtPend = s.evtPend := by
  cases run <;> cases stop <;> rfl
@[simp] theorem State.advanceCounters_seqState (s : State) (run stop : Bool) : (s.advanceCounters run stop).seqState = s.seqState := by
  cases run <;> cases stop <;> rfl
@[simp] theorem State.advanceCounters_nextRow (s : State) (run stop : Bool) : (s.advanceCounters run stop).nextRow = s.nextRow := by
  cases run <;> cases stop <;> rfl
@[simp] theorem State.advanceCounters_rowaddr (s : State) (run stop : Bool) : (s.advanceCounters run stop).rowaddr = s.rowaddr := by
  cases run <;> cases stop <;> rfl
@[simp] theorem State.advanceCounters_byteIdx (s : State) (run stop : Bool) : (s.advanceCounters run stop).byteIdx = s.byteIdx := by
  cases run <;> cases stop <;> rfl
@[simp] theorem State.advanceCounters_bitIdx (s : State) (run stop : Bool) : (s.advanceCounters run stop).bitIdx = s.bitIdx := by
  cases run <;> cases stop <;> rfl
@[simp] theorem State.advanceCounters_sub (s : State) (run stop : Bool) : (s.advanceCounters run stop).sub = s.sub := by
  cases run <;> cases stop <;> rfl
@[simp] theorem State.advanceCounters_sin (s : State) (run stop : Bool) : (s.advanceCounters run stop).sin = s.sin := by
  cases run <;> cases stop <;> rfl
@[simp] theorem State.advanceCounters_sclk (s : State) (run stop : Bool) : (s.advanceCounters run stop).sclk = s.sclk := by
  cases run <;> cases stop <;> rfl
@[simp] theorem State.advanceCounters_rdata (s : State) (run stop : Bool) : (s.advanceCounters run stop).rdata = s.rdata := by
  cases run <;> cases stop <;> rfl
@[simp] theorem State.advanceCounters_rvalid (s : State) (run stop : Bool) : (s.advanceCounters run stop).rvalid = s.rvalid := by
  cases run <;> cases stop <;> rfl
@[simp] theorem State.advanceCounters_port (s : State) (run stop : Bool) : (s.advanceCounters run stop).port = s.port := by
  cases run <;> cases stop <;> rfl
@[simp] theorem State.advanceCounters_script (s : State) (run stop : Bool) : (s.advanceCounters run stop).script = s.script := by
  cases run <;> cases stop <;> rfl
@[simp] theorem State.advanceCounters_tick (s : State) (run stop : Bool) : (s.advanceCounters run stop).tick = s.tick := by
  cases run <;> cases stop <;> rfl

/-! ### `nextBit` -/

@[simp] theorem State.nextBit_cfg (s : State) : (s.nextBit).cfg = s.cfg := by
  unfold State.nextBit; split <;> rfl
@[simp] theorem State.nextBit_buf (s : State) : (s.nextBit).buf = s.buf := by
  unfold State.nextBit; split <;> rfl
@[simp] theorem State.nextBit_run (s : State) : (s.nextBit).run = s.run := by
  unfold State.nextBit; split <;> rfl
@[simp] theorem State.nextBit_blPhase (s : State) : (s.nextBit).blPhase = s.blPhase := by
  unfold State.nextBit; split <;> rfl
@[simp] theorem State.nextBit_gsPhase (s : State) : (s.nextBit).gsPhase = s.gsPhase := by
  unfold State.nextBit; split <;> rfl
@[simp] theorem State.nextBit_evtEn (s : State) : (s.nextBit).evtEn = s.evtEn := by
  unfold State.nextBit; split <;> rfl
@[simp] theorem State.nextBit_evtPend (s : State) : (s.nextBit).evtPend = s.evtPend := by
  unfold State.nextBit; split <;> rfl
@[simp] theorem State.nextBit_seqState (s : State) : (s.nextBit).seqState = s.seqState := by
  unfold State.nextBit; split <;> rfl
@[simp] theorem State.nextBit_nextRow (s : State) : (s.nextBit).nextRow = s.nextRow := by
  unfold State.nextBit; split <;> rfl
@[simp] theorem State.nextBit_rowaddr (s : State) : (s.nextBit).rowaddr = s.rowaddr := by
  unfold State.nextBit; split <;> rfl
@[simp] theorem State.nextBit_sub (s : State) : (s.nextBit).sub = .setUp := by
  unfold State.nextBit; split <;> rfl
@[simp] theorem State.nextBit_sclk (s : State) : (s.nextBit).sclk = s.sclk := by
  unfold State.nextBit; split <;> rfl
@[simp] theorem State.nextBit_rdata (s : State) : (s.nextBit).rdata = s.rdata := by
  unfold State.nextBit; split <;> rfl
@[simp] theorem State.nextBit_rvalid (s : State) : (s.nextBit).rvalid = s.rvalid := by
  unfold State.nextBit; split <;> rfl
@[simp] theorem State.nextBit_port (s : State) : (s.nextBit).port = s.port := by
  unfold State.nextBit; split <;> rfl
@[simp] theorem State.nextBit_script (s : State) : (s.nextBit).script = s.script := by
  unfold State.nextBit; split <;> rfl
@[simp] theorem State.nextBit_tick (s : State) : (s.nextBit).tick = s.tick := by
  unfold State.nextBit; split <;> rfl

/-! ### `shiftTick` -/

@[simp] theorem State.shiftTick_cfg (s : State) : (s.shiftTick).cfg = s.cfg := by
  unfold State.shiftTick; split
  · rfl
  · rfl
  · split <;> simp
@[simp] theorem State.shiftTick_buf (s : State) : (s.shiftTick).buf = s.buf := by
  unfold State.shiftTick; split
  · rfl
  · rfl
  · split <;> simp
@[simp] theorem State.shiftTick_run (s : State) : (s.shiftTick).run = s.run := by
  unfold State.shiftTick; split
  · rfl
  · rfl
  · split <;> simp
@[simp] theorem State.shiftTick_blPhase (s : State) : (s.shiftTick).blPhase = s.blPhase := by
  unfold State.shiftTick; split
  · rfl
  · rfl
  · split <;> simp
@[simp] theorem State.shiftTick_gsPhase (s : State) : (s.shiftTick).gsPhase = s.gsPhase := by
  unfold State.shiftTick; split
  · rfl
  · rfl
  · split <;> simp
@[simp] theorem State.shiftTick_evtEn (s : State) : (s.shiftTick).evtEn = s.evtEn := by
  unfold State.shiftTick; split
  · rfl
  · rfl
  · split <;> simp
@[simp] theorem State.shiftTick_evtPend (s : State) : (s.shiftTick).evtPend = s.evtPend := by
  unfold State.shiftTick; split
  · rfl
  · rfl
  · split <;> simp
@[simp] theorem State.shiftTick_nextRow (s : State) : (s.shiftTick).nextRow = s.nextRow := by
  unfold State.shiftTick; split
  · rfl
  · rfl
  · split <;> simp
@[simp] theorem State.shiftTick_rowaddr (s : State) : (s.shiftTick).rowaddr = s.rowaddr := by
  unfold State.shiftTick; split
  · rfl
  · rfl
  · split <;> simp
@[simp] theorem State.shiftTick_rdata (s : State) : (s.shiftTick).rdata = s.rdata := by
  unfold State.shiftTick; split
  · rfl
  · rfl
  · split <;> simp
@[simp] theorem State.shiftTick_rvalid (s : State) : (s.shiftTick).rvalid = s.rvalid := by
  unfold State.shiftTick; split
  · rfl
  · rfl
  · split <;> simp
@[simp] theorem State.shiftTick_port (s : State) : (s.shiftTick).port = s.port := by
  unfold State.shiftTick; split
  · rfl
  · rfl
  · split <;> simp
@[simp] theorem State.shiftTick_script (s : State) : (s.shiftTick).script = s.script := by
  unfold State.shiftTick; split
  · rfl
  · rfl
  · split <;> simp
@[simp] theorem State.shiftTick_tick (s : State) : (s.shiftTick).tick = s.tick := by
  unfold State.shiftTick; split
  · rfl
  · rfl
  · split <;> simp

/-! ### `sequence` -/

@[simp] theorem State.sequence_cfg (s : State) (acc : Bool) : (s.sequence acc).cfg = s.cfg := by
  unfold State.sequence; split
  · simp
  · split <;> simp
@[simp] theorem State.sequence_buf (s : State) (acc : Bool) : (s.sequence acc).buf = s.buf := by
  unfold State.sequence; split
  · simp
  · split <;> simp
@[simp] theorem State.sequence_run (s : State) (acc : Bool) : (s.sequence acc).run = s.run := by
  unfold State.sequence; split
  · simp
  · split <;> simp
@[simp] theorem State.sequence_blPhase (s : State) (acc : Bool) : (s.sequence acc).blPhase = s.blPhase := by
  unfold State.sequence; split
  · simp
  · split <;> simp
@[simp] theorem State.sequence_gsPhase (s : State) (acc : Bool) : (s.sequence acc).gsPhase = s.gsPhase := by
  unfold State.sequence; split
  · simp
  · split <;> simp
@[simp] theorem State.sequence_evtEn (s : State) (acc : Bool) : (s.sequence acc).evtEn = s.evtEn := by
  unfold State.sequence; split
  · simp
  · split <;> simp
@[simp] theorem State.sequence_evtPend (s : State) (acc : Bool) : (s.sequence acc).evtPend = s.evtPend := by
  unfold State.sequence; split
  · simp
  · split <;> simp
@[simp] theorem State.sequence_rdata (s : State) (acc : Bool) : (s.sequence acc).rdata = s.rdata := by
  unfold State.sequence; split
  · simp
  · split <;> simp
@[simp] theorem State.sequence_rvalid (s : State) (acc : Bool) : (s.sequence acc).rvalid = s.rvalid := by
  unfold State.sequence; split
  · simp
  · split <;> simp
@[simp] theorem State.sequence_port (s : State) (acc : Bool) : (s.sequence acc).port = s.port := by
  unfold State.sequence; split
  · simp
  · split <;> simp
@[simp] theorem State.sequence_script (s : State) (acc : Bool) : (s.sequence acc).script = s.script := by
  unfold State.sequence; split
  · simp
  · split <;> simp
@[simp] theorem State.sequence_tick (s : State) (acc : Bool) : (s.sequence acc).tick = s.tick := by
  unfold State.sequence; split
  · simp
  · split <;> simp

/-! ### `finishTick` -/

@[simp] theorem State.finishTick_cfg (s s1 : State) : (s.finishTick s1).cfg = s1.cfg := by
  simp [State.finishTick]
@[simp] theorem State.finishTick_buf (s s1 : State) : (s.finishTick s1).buf = s1.buf := by
  simp [State.finishTick]
@[simp] theorem State.finishTick_run (s s1 : State) : (s.finishTick s1).run = s1.run := by
  simp [State.finishTick]
@[simp] theorem State.finishTick_evtEn (s s1 : State) : (s.finishTick s1).evtEn = s1.evtEn := by
  simp [State.finishTick]
@[simp] theorem State.finishTick_rdata (s s1 : State) : (s.finishTick s1).rdata = s1.rdata := by
  simp [State.finishTick]
@[simp] theorem State.finishTick_rvalid (s s1 : State) : (s.finishTick s1).rvalid = s1.rvalid := by
  simp [State.finishTick]
@[simp] theorem State.finishTick_tick (s s1 : State) : (s.finishTick s1).tick = s1.tick + 1 := by
  simp [State.finishTick]
@[simp] theorem State.finishTick_port (s s1 : State) : (s.finishTick s1).port = s1.script.headD InPorts.idle := by
  simp [State.finishTick]
@[simp] theorem State.finishTick_script (s s1 : State) : (s.finishTick s1).script = s1.script.tail := by
  simp [State.finishTick]
@[simp] theorem State.finishTick_evtPend (s s1 : State) :
    (s.finishTick s1).evtPend = if s.stopTaken then false else s.evtReq && !s.accept := by
  simp [State.finishTick]
@[simp] theorem State.finishTick_nextRow (s s1 : State) :
    (s.finishTick s1).nextRow = if s.accept then (s1.nextRow + 1) % s1.cfg.rowCount else s1.nextRow := by
  simp only [State.finishTick, State.advancePort_nextRow, State.advanceCounters_nextRow, State.sequence]
  split
  · simp
  · split <;> simp
@[simp] theorem State.finishTick_rowaddr (s s1 : State) :
    (s.finishTick s1).rowaddr = if s.accept then s1.nextRow else s1.rowaddr := by
  simp only [State.finishTick, State.advancePort_rowaddr, State.advanceCounters_rowaddr, State.sequence]
  split
  · simp
  · split <;> simp
@[simp] theorem State.finishTick_blPhase (s s1 : State) :
    (s.finishTick s1).blPhase =
      if s.stopTaken then 0 else if s.run then (s1.blPhase + 1) % s1.cfg.pBlank else 0 := by
  simp [State.finishTick]
@[simp] theorem State.finishTick_gsPhase (s s1 : State) :
    (s.finishTick s1).gsPhase =
      if s.stopTaken then 0 else if s.run then (s1.gsPhase + 1) % s1.cfg.pGsclk else 0 := by
  simp [State.finishTick]

/-! ### The ticks of a shift -/

theorem State.shiftTick_setUp {s : State} (h : s.sub = .setUp) : s.shiftTick = { s with sclk := true, sub := .high } := by
  simp [State.shiftTick, h]

theorem State.shiftTick_high {s : State} (h : s.sub = .high) : s.shiftTick = { s with sclk := false, sub := .low } := by
  simp [State.shiftTick, h]

theorem State.shiftTick_low_last {s : State} (h : s.sub = .low) (hl : s.atLastBit = true) : s.shiftTick = s.endShift := by
  simp [State.shiftTick, h, hl]

theorem State.shiftTick_low_next {s : State} (h : s.sub = .low) (hl : s.atLastBit = false) : s.shiftTick = s.nextBit := by
  simp [State.shiftTick, h, hl]

theorem State.sequence_accept (s : State) : s.sequence true = s.takeEvent := rfl

theorem State.sequence_busy {s : State} (h : s.seqState = .busy) : s.sequence false = s.shiftTick := by
  simp [State.sequence, h]

theorem State.sequence_idle {s : State} (h : s.seqState = .idle) : s.sequence false = s := by
  simp [State.sequence, h]

/-! ### The sequencer's fields after a tick: those of step 5 alone -/

theorem State.bookEvent_nextBit (s : State) (req acc stop : Bool) :
    (s.bookEvent req acc stop).nextBit = s.nextBit.bookEvent req acc stop := by
  unfold State.nextBit
  by_cases h : 0 < s.bitIdx.val
  · rw [if_pos h, if_pos (by exact h)]; rfl
  · rw [if_neg h, if_neg (by exact h)]; rfl

theorem State.bookEvent_shiftTick (s : State) (req acc stop : Bool) :
    (s.bookEvent req acc stop).shiftTick = s.shiftTick.bookEvent req acc stop := by
  cases h : s.sub with
  | setUp => rw [State.shiftTick_setUp h, State.shiftTick_setUp (by simpa using h)]; rfl
  | high => rw [State.shiftTick_high h, State.shiftTick_high (by simpa using h)]; rfl
  | low =>
    cases hl : s.atLastBit with
    | true =>
      rw [State.shiftTick_low_last h hl, State.shiftTick_low_last (s := s.bookEvent req acc stop) (by simpa using h) hl]
      rfl
    | false =>
      rw [State.shiftTick_low_next h hl, State.shiftTick_low_next (s := s.bookEvent req acc stop) (by simpa using h) hl,
        State.bookEvent_nextBit]

/-- Steps 4 and 5 touch disjoint state. -/
theorem State.bookEvent_sequence (s : State) (req acc stop a : Bool) :
    (s.bookEvent req acc stop).sequence a = (s.sequence a).bookEvent req acc stop := by
  cases a with
  | true => rfl
  | false =>
    cases h : s.seqState with
    | busy => rw [State.sequence_busy h, State.sequence_busy (by simpa using h), State.bookEvent_shiftTick]
    | idle => rw [State.sequence_idle h, State.sequence_idle (by simpa using h)]

@[simp] theorem State.finishTick_seqState (s s1 : State) : (s.finishTick s1).seqState = (s1.sequence s.accept).seqState := by
  simp [State.finishTick, State.bookEvent_sequence]
@[simp] theorem State.finishTick_byteIdx (s s1 : State) : (s.finishTick s1).byteIdx = (s1.sequence s.accept).byteIdx := by
  simp [State.finishTick, State.bookEvent_sequence]
@[simp] theorem State.finishTick_bitIdx (s s1 : State) : (s.finishTick s1).bitIdx = (s1.sequence s.accept).bitIdx := by
  simp [State.finishTick, State.bookEvent_sequence]
@[simp] theorem State.finishTick_sub (s s1 : State) : (s.finishTick s1).sub = (s1.sequence s.accept).sub := by
  simp [State.finishTick, State.bookEvent_sequence]
@[simp] theorem State.finishTick_sin (s s1 : State) : (s.finishTick s1).sin = (s1.sequence s.accept).sin := by
  simp [State.finishTick, State.bookEvent_sequence]
@[simp] theorem State.finishTick_sclk (s s1 : State) : (s.finishTick s1).sclk = (s1.sequence s.accept).sclk := by
  simp [State.finishTick, State.bookEvent_sequence]

/-! ### Signals -/

theorem State.busy_iff (s : State) : s.busy = true ↔ s.seqState = .busy := by simp [State.busy]

theorem State.not_busy_iff (s : State) : s.busy = false ↔ s.seqState = .idle := by
  unfold State.busy; cases s.seqState <;> simp

theorem State.accept_iff (s : State) :
    s.accept = true ↔ s.evtReq = true ∧ s.evtEn = true ∧ s.seqState = .idle := by
  rw [← s.not_busy_iff]; simp [State.accept, and_assoc]

/-- A command is taken only while the sequencer is idle and no event is being accepted (R31). -/
theorem State.cmdTaken_iff (s : State) :
    s.cmdTaken = true ↔ s.port.cmdValid = true ∧ s.seqState = .idle ∧ s.accept = false := by
  rw [← s.not_busy_iff]; simp [State.cmdTaken, State.cmdReady]

/-- The command and the sequencer never act in one tick (R30). -/
theorem State.not_accept_of_cmdTaken {s : State} (h : s.cmdTaken = true) : s.accept = false := (s.cmdTaken_iff.mp h).2.2

theorem State.not_taken_of_busy {s : State} (h : s.seqState = .busy) : s.cmdTaken = false := by
  simp [State.cmdTaken, State.cmdReady, State.busy, h]

theorem State.not_taken_of_accept {s : State} (h : s.accept = true) : s.cmdTaken = false := by
  simp [State.cmdTaken, State.cmdReady, h]

theorem State.stopTaken_iff (s : State) : s.stopTaken = true ↔ s.cmdTaken = true ∧ s.command = .stop := by
  simp [State.stopTaken]

end Sys2Proof.Machine
end

