-- ==== Sys2Proof/Laws/Exec.lean ====
section
/-! SUPPORT. What the range check, the meanings and one tick can do, said once each. -/

namespace Sys2Proof.Machine

/-! ### The range check (R80) -/

theorem rangeFault_row {s : State} {r : Nat} (c? : Option Nat) (h : s.cfg.rowCount ≤ r) :
    s.rangeFault r c? = some (.preconditionViolation .row s.port.cmd s.tick) := by
  simp [State.rangeFault, h]

theorem rangeFault_channel {s : State} {r c : Nat} (hr : r < s.cfg.rowCount) (hc : s.cfg.nCh ≤ c) :
    s.rangeFault r (some c) = some (.preconditionViolation .channel s.port.cmd s.tick) := by
  simp [State.rangeFault, hc, Nat.not_le.mpr hr]

theorem rangeFault_none {s : State} {r : Nat} (hr : r < s.cfg.rowCount) : s.rangeFault r none = none := by
  simp [State.rangeFault, Nat.not_le.mpr hr]

theorem rangeFault_some {s : State} {r c : Nat} (hr : r < s.cfg.rowCount) (hc : c < s.cfg.nCh) :
    s.rangeFault r (some c) = none := by
  simp [State.rangeFault, Nat.not_le.mpr hr, Nat.not_le.mpr hc]

/-- The check passes exactly when the indexes the command uses are in range. -/
theorem rangeFault_eq_none {s : State} {r : Nat} {c? : Option Nat} (h : s.rangeFault r c? = none) :
    r < s.cfg.rowCount ∧ ∀ c, c? = some c → c < s.cfg.nCh := by
  unfold State.rangeFault at h
  split at h
  · simp at h
  · next hr =>
    refine ⟨by omega, fun c hc => ?_⟩
    subst hc
    by_contra hcc
    simp [Nat.not_lt.mp hcc] at h

/-- The check raises nothing but `PreconditionViolation`, with the word and the tick on record (R160, R161). -/
theorem rangeFault_eq_some {s : State} {r : Nat} {c? : Option Nat} {f : Fault} (h : s.rangeFault r c? = some f) :
    ∃ k, f = .preconditionViolation k s.port.cmd s.tick := by
  unfold State.rangeFault at h
  split at h
  · exact ⟨.row, (Option.some.inj h).symm⟩
  · split at h
    · cases h
    · split at h
      · exact ⟨.channel, (Option.some.inj h).symm⟩
      · cases h

/-! ### The meanings -/

/-- Everything an accepted command can do: it replaces `buf` by one of six stores, sets `rdata`, `run`, `evt_en`, or,
for `STOP`, clears the phases and `evt_pend`; `rvalid` says whether it was a `GET` (R30 step 3). -/
theorem exec_cases {i : Instr} {s t : State} (h : exec i s = .next t) :
    (i = .nop ∧ t = s.dropRvalid) ∨
    ((i = .clearAll ∨ i = .init) ∧ t = { s.dropRvalid with buf := zeroAll s.cfg s.buf }) ∨
    (∃ r, i = .clearRow r ∧ r < s.cfg.rowCount ∧ t = { s.dropRvalid with buf := zeroRow s.cfg s.buf r }) ∨
    (∃ r c, i = .get r c ∧ r < s.cfg.rowCount ∧ c < s.cfg.nCh ∧
      t = { s with rdata := readChannel s.cfg s.buf r c, rvalid := true }) ∨
    (∃ r c v, i = .set r c v ∧ r < s.cfg.rowCount ∧ c < s.cfg.nCh ∧
      t = { s.dropRvalid with buf := writeChannel s.cfg s.buf r c v }) ∨
    (∃ r v, i = .setRow r v ∧ r < s.cfg.rowCount ∧ t = { s.dropRvalid with buf := patternRow s.cfg s.buf r v }) ∨
    (∃ v, (i = .setAll v ∨ i = .initv v) ∧ t = { s.dropRvalid with buf := patternAll s.cfg s.buf v }) ∨
    (i = .start ∧ t = { s.dropRvalid with run := true }) ∨
    (i = .stop ∧ t = { s.dropRvalid with run := false, blPhase := 0, gsPhase := 0, evtPend := false }) ∨
    (i = .evtOff ∧ t = { s.dropRvalid with evtEn := false }) ∨
    (i = .evtOn ∧ t = { s.dropRvalid with evtEn := true }) := by
  cases i with
  | nop => exact .inl ⟨rfl, by cases h; rfl⟩
  | clearAll => exact .inr (.inl ⟨.inl rfl, by cases h; rfl⟩)
  | init => exact .inr (.inl ⟨.inr rfl, by cases h; rfl⟩)
  | clearRow r =>
    simp only [exec, execClearRow] at h
    split at h
    · cases h
    · next hf => cases h; exact .inr (.inr (.inl ⟨r, rfl, (rangeFault_eq_none hf).1, rfl⟩))
  | get r c =>
    simp only [exec, execGet] at h
    split at h
    · cases h
    · next hf =>
      cases h
      exact .inr (.inr (.inr (.inl ⟨r, c, rfl, (rangeFault_eq_none hf).1, (rangeFault_eq_none hf).2 c rfl, rfl⟩)))
  | set r c v =>
    simp only [exec, execSet] at h
    split at h
    · cases h
    · next hf =>
      cases h
      exact .inr (.inr (.inr (.inr (.inl
        ⟨r, c, v, rfl, (rangeFault_eq_none hf).1, (rangeFault_eq_none hf).2 c rfl, rfl⟩))))
  | setRow r v =>
    simp only [exec, execSetRow] at h
    split at h
    · cases h
    · next hf => cases h; exact .inr (.inr (.inr (.inr (.inr (.inl ⟨r, v, rfl, (rangeFault_eq_none hf).1, rfl⟩)))))
  | setAll v => exact .inr (.inr (.inr (.inr (.inr (.inr (.inl ⟨v, .inl rfl, by cases h; rfl⟩))))))
  | initv v => exact .inr (.inr (.inr (.inr (.inr (.inr (.inl ⟨v, .inr rfl, by cases h; rfl⟩))))))
  | start => exact .inr (.inr (.inr (.inr (.inr (.inr (.inr (.inl ⟨rfl, by cases h; rfl⟩)))))))
  | stop => exact .inr (.inr (.inr (.inr (.inr (.inr (.inr (.inr (.inl ⟨rfl, by cases h; rfl⟩))))))))
  | evtOff => exact .inr (.inr (.inr (.inr (.inr (.inr (.inr (.inr (.inr (.inl ⟨rfl, by cases h; rfl⟩)))))))))
  | evtOn => exact .inr (.inr (.inr (.inr (.inr (.inr (.inr (.inr (.inr (.inr ⟨rfl, by cases h; rfl⟩)))))))))
  | reservedD => cases h
  | reservedE => cases h
  | reservedF => cases h

/-- Everything a command can raise: the range check of the four that have one, or `ReservedCommand`. -/
theorem exec_fault_cases {i : Instr} {s : State} {f : Fault} (h : exec i s = .fault f) :
    (∃ r, (i = .clearRow r ∨ ∃ v, i = .setRow r v) ∧ s.rangeFault r none = some f) ∨
    (∃ r c, (i = .get r c ∨ ∃ v, i = .set r c v) ∧ s.rangeFault r (some c) = some f) ∨
    (i = .reservedD ∧ f = .reservedCommand 0xD#4 s.port.cmd s.tick) ∨
    (i = .reservedE ∧ f = .reservedCommand 0xE#4 s.port.cmd s.tick) ∨
    (i = .reservedF ∧ f = .reservedCommand 0xF#4 s.port.cmd s.tick) := by
  cases i with
  | clearRow r =>
    simp only [exec, execClearRow] at h
    split at h
    · next hf => cases h; exact .inl ⟨r, .inl rfl, hf⟩
    · cases h
  | setRow r v =>
    simp only [exec, execSetRow] at h
    split at h
    · next hf => cases h; exact .inl ⟨r, .inr ⟨v, rfl⟩, hf⟩
    · cases h
  | get r c =>
    simp only [exec, execGet] at h
    split at h
    · next hf => cases h; exact .inr (.inl ⟨r, c, .inl rfl, hf⟩)
    · cases h
  | set r c v =>
    simp only [exec, execSet] at h
    split at h
    · next hf => cases h; exact .inr (.inl ⟨r, c, .inr ⟨v, rfl⟩, hf⟩)
    · cases h
  | reservedD => cases h; exact .inr (.inr (.inl ⟨rfl, rfl⟩))
  | reservedE => cases h; exact .inr (.inr (.inr (.inl ⟨rfl, rfl⟩)))
  | reservedF => cases h; exact .inr (.inr (.inr (.inr ⟨rfl, rfl⟩)))
  | nop => cases h
  | clearAll => cases h
  | setAll v => cases h
  | init => cases h
  | initv v => cases h
  | start => cases h
  | stop => cases h
  | evtOff => cases h
  | evtOn => cases h

/-- No command is refused. -/
theorem exec_not_refused (i : Instr) (s : State) (r : Refusal) : exec i s ≠ .refused r := by
  intro h
  cases i with
  | clearRow r => simp only [exec, execClearRow] at h; split at h <;> cases h
  | setRow r v => simp only [exec, execSetRow] at h; split at h <;> cases h
  | get r c => simp only [exec, execGet] at h; split at h <;> cases h
  | set r c v => simp only [exec, execSet] at h; split at h <;> cases h
  | nop => cases h
  | clearAll => cases h
  | setAll v => cases h
  | init => cases h
  | initv v => cases h
  | start => cases h
  | stop => cases h
  | evtOff => cases h
  | evtOn => cases h
  | reservedD => cases h
  | reservedE => cases h
  | reservedF => cases h

/-- What no command touches (R30 step 3): the parameters, the sequencer, the row pointers, the lines and the model's
own fields. -/
theorem exec_keeps {i : Instr} {s t : State} (h : exec i s = .next t) :
    t.cfg = s.cfg ∧ t.seqState = s.seqState ∧ t.nextRow = s.nextRow ∧ t.rowaddr = s.rowaddr ∧
    t.byteIdx = s.byteIdx ∧ t.bitIdx = s.bitIdx ∧ t.sub = s.sub ∧ t.sin = s.sin ∧ t.sclk = s.sclk ∧
    t.port = s.port ∧ t.script = s.script ∧ t.tick = s.tick := by
  rcases exec_cases h with ⟨-, rfl⟩ | ⟨-, rfl⟩ | ⟨r, -, -, rfl⟩ | ⟨r, c, -, -, -, rfl⟩ | ⟨r, c, v, -, -, -, rfl⟩ |
    ⟨r, v, -, -, rfl⟩ | ⟨v, -, rfl⟩ | ⟨-, rfl⟩ | ⟨-, rfl⟩ | ⟨-, rfl⟩ | ⟨-, rfl⟩ <;>
    exact ⟨rfl, rfl, rfl, rfl, rfl, rfl, rfl, rfl, rfl, rfl, rfl, rfl⟩

/-- Every command keeps the buffer canonical. -/
theorem exec_buf_wf {i : Instr} {s t : State} (h : exec i s = .next t) (hm : s.buf.wf) : t.buf.wf := by
  rcases exec_cases h with ⟨-, rfl⟩ | ⟨-, rfl⟩ | ⟨r, -, -, rfl⟩ | ⟨r, c, -, -, -, rfl⟩ | ⟨r, c, v, -, -, -, rfl⟩ |
    ⟨r, v, -, -, rfl⟩ | ⟨v, -, rfl⟩ | ⟨-, rfl⟩ | ⟨-, rfl⟩ | ⟨-, rfl⟩ | ⟨-, rfl⟩
  · exact hm
  · exact fillRows_wf hm _ _ _
  · exact fillRow_wf hm _ _ _
  · exact hm
  · exact writeChannel_wf hm _ _ _ _
  · exact fillRow_wf hm _ _ _
  · exact fillRows_wf hm _ _ _
  · exact hm
  · exact hm
  · exact hm
  · exact hm

/-- Every command keeps the buffer inside the RowSet. -/
theorem exec_buf_inRowSet {i : Instr} {s t : State} (h : exec i s = .next t) (hv : s.cfg.Valid)
    (hm : s.buf.inRowSet s.cfg) : t.buf.inRowSet s.cfg := by
  have hs := rowBytes_le_stride hv
  rcases exec_cases h with ⟨-, rfl⟩ | ⟨-, rfl⟩ | ⟨r, -, hr, rfl⟩ | ⟨r, c, -, -, -, rfl⟩ | ⟨r, c, v, -, hr, hc, rfl⟩ |
    ⟨r, v, -, hr, rfl⟩ | ⟨v, -, rfl⟩ | ⟨-, rfl⟩ | ⟨-, rfl⟩ | ⟨-, rfl⟩ | ⟨-, rfl⟩
  · exact hm
  · exact fillRows_inRowSet hm hs _ le_rfl le_rfl
  · exact fillRow_inRowSet hm hs hr _ le_rfl
  · exact hm
  · exact writeChannel_inRowSet hm hs hr hc _
  · exact fillRow_inRowSet hm hs hr _ le_rfl
  · exact fillRows_inRowSet hm hs _ le_rfl le_rfl
  · exact hm
  · exact hm
  · exact hm
  · exact hm

/-- Only `STOP` clears `run`. -/
theorem exec_run {i : Instr} {s t : State} (h : exec i s = .next t) (hi : i ≠ .stop) (hr : t.run = false) :
    s.run = false := by
  rcases exec_cases h with ⟨-, rfl⟩ | ⟨-, rfl⟩ | ⟨r, -, -, rfl⟩ | ⟨r, c, -, -, -, rfl⟩ | ⟨r, c, v, -, -, -, rfl⟩ |
    ⟨r, v, -, -, rfl⟩ | ⟨v, -, rfl⟩ | ⟨-, rfl⟩ | ⟨rfl, rfl⟩ | ⟨-, rfl⟩ | ⟨-, rfl⟩
  · exact hr
  · exact hr
  · exact hr
  · exact hr
  · exact hr
  · exact hr
  · exact hr
  · cases hr
  · exact absurd rfl hi
  · exact hr
  · exact hr

/-! ### One tick -/

/-- Everything a tick that goes on can do: reset, or a command step followed by steps 4 to 6 (R30). -/
theorem clockTick_cases {s t : State} (h : clockTick s = .next t) :
    s.cfg.Valid ∧
    ((s.port.rst = true ∧ t = s.applyReset.advancePort) ∨
     (s.port.rst = false ∧ s.timingFault = none ∧ ∃ s1, s.commandStep = .next s1 ∧ t = s.finishTick s1)) := by
  unfold clockTick at h
  split at h
  · next hv =>
    refine ⟨hv, ?_⟩
    split at h
    · next hr => cases h; exact .inl ⟨hr, rfl⟩
    · next hr =>
      refine .inr ⟨by simpa using hr, ?_⟩
      split at h
      · cases h
      · next hf =>
        refine ⟨hf, ?_⟩
        split at h
        · next s1 hs => cases h; exact ⟨s1, hs, rfl⟩
        · cases h
        · cases h
  · cases h

/-- Where a tick's fault comes from: a fault condition of R163 first, else the command (R167). -/
theorem clockTick_fault {s : State} {f : Fault} (h : clockTick s = .fault f) :
    s.cfg.Valid ∧ s.port.rst = false ∧
    ((∃ k, s.timingFault = some k ∧ f = .timingViolation k s.tick) ∨
     (s.timingFault = none ∧ s.cmdTaken = true ∧ exec s.command s = .fault f)) := by
  unfold clockTick at h
  split at h
  · next hv =>
    split at h
    · cases h
    · next hr =>
      refine ⟨hv, by simpa using hr, ?_⟩
      split at h
      · next k hk => cases h; exact .inl ⟨k, hk, rfl⟩
      · next hk =>
        split at h
        · cases h
        · next f' hf =>
          cases h
          unfold State.commandStep at hf
          split at hf
          · next ht => exact .inr ⟨hk, ht, hf⟩
          · cases hf
        · cases h
  · cases h

/-- A tick that goes on, run forwards. -/
theorem clockTick_next {s s1 : State} (hv : s.cfg.Valid) (hr : s.port.rst = false) (hf : s.timingFault = none)
    (hs : s.commandStep = .next s1) : clockTick s = .next (s.finishTick s1) := by
  unfold clockTick
  rw [if_pos hv, hr, hf, hs]
  rfl

/-- The command step of a tick that takes no command. -/
theorem commandStep_idle {s : State} (h : s.cmdTaken = false) : s.commandStep = .next s.dropRvalid := by
  simp [State.commandStep, h]

theorem commandStep_taken {s : State} (h : s.cmdTaken = true) : s.commandStep = exec s.command s := by
  simp [State.commandStep, h]

/-- The command step either takes no command or is `exec`. -/
theorem commandStep_cases {s s1 : State} (h : s.commandStep = .next s1) :
    (s.cmdTaken = false ∧ s1 = s.dropRvalid) ∨ (s.cmdTaken = true ∧ exec s.command s = .next s1) := by
  unfold State.commandStep at h
  split at h
  · next ht => exact .inr ⟨ht, h⟩
  · next ht => cases h; exact .inl ⟨by simpa using ht, rfl⟩

end Sys2Proof.Machine
end

