-- ==== Sys2Proof/Laws/PerInstr.lean ====
section
/-! SUPPORT. Statements about every command as syntax, one lemma per constructor. `OpcodeMap`: the word of a command
carries the opcode of R62 in `CMD[31:28]`, and that opcode alone selects the constructor again, whatever the other
fields hold. -/

namespace Sys2Proof.Laws.OpcodeMap

/-- Both words agree on everything but their operands. -/
def sameConstructor (i j : Instr) : Prop := opcodeOf i = opcodeOf j

def Statement (i : Instr) : Prop :=
  opField (encode i) = opcodeOf i ∧ ∀ r c v, sameConstructor (commandOf (opcodeOf i) r c v) i

theorem nop : Statement .nop := ⟨opField_formatC _ _ _ _, fun _ _ _ => rfl⟩
theorem clearAll : Statement .clearAll := ⟨opField_formatC _ _ _ _, fun _ _ _ => rfl⟩
theorem clearRow (r : Nat) : Statement (.clearRow r) := ⟨opField_formatC _ _ _ _, fun _ _ _ => rfl⟩
theorem get (r c : Nat) : Statement (.get r c) := ⟨opField_formatC _ _ _ _, fun _ _ _ => rfl⟩
theorem set (r c : Nat) (v : Gray) : Statement (.set r c v) := ⟨opField_formatC _ _ _ _, fun _ _ _ => rfl⟩
theorem setRow (r : Nat) (v : Gray) : Statement (.setRow r v) := ⟨opField_formatC _ _ _ _, fun _ _ _ => rfl⟩
theorem setAll (v : Gray) : Statement (.setAll v) := ⟨opField_formatC _ _ _ _, fun _ _ _ => rfl⟩
theorem init : Statement .init := ⟨opField_formatC _ _ _ _, fun _ _ _ => rfl⟩
theorem initv (v : Gray) : Statement (.initv v) := ⟨opField_formatC _ _ _ _, fun _ _ _ => rfl⟩
theorem start : Statement .start := ⟨opField_formatC _ _ _ _, fun _ _ _ => rfl⟩
theorem stop : Statement .stop := ⟨opField_formatC _ _ _ _, fun _ _ _ => rfl⟩
theorem evtOff : Statement .evtOff := ⟨opField_formatC _ _ _ _, fun _ _ _ => rfl⟩
theorem evtOn : Statement .evtOn := ⟨opField_formatC _ _ _ _, fun _ _ _ => rfl⟩
theorem reservedD : Statement .reservedD := ⟨opField_formatC _ _ _ _, fun _ _ _ => rfl⟩
theorem reservedE : Statement .reservedE := ⟨opField_formatC _ _ _ _, fun _ _ _ => rfl⟩
theorem reservedF : Statement .reservedF := ⟨opField_formatC _ _ _ _, fun _ _ _ => rfl⟩

end Sys2Proof.Laws.OpcodeMap
end

