-- ==== Sys2Proof/Machine/Assembler.lean ====
section
/-! DEFINITION. The assembler syntax of the spec's listings (R67) and its pseudo-instructions (R68). Text is a list of
characters; what R67 leaves open about white space is log entry 17. -/

namespace Sys2Proof.Machine

/-- Why a line is no command. -/
inductive AsmError where
  | unknownMnemonic
  | wrongOperandCount
  | badNumber
  | operandTooLarge
deriving DecidableEq, Repr

/-- Space, tab or carriage return. -/
def isBlankChar (c : Char) : Bool := decide (c = ' ') || decide (c = '\t') || decide (c = '\r')

/-- The value of a digit in base 10 or 16. -/
def digitValue (base : Nat) (c : Char) : Option Nat :=
  let n := c.toNat
  let v := if 48 ≤ n ∧ n ≤ 57 then n - 48 else if 97 ≤ n ∧ n ≤ 102 then n - 87 else if 65 ≤ n ∧ n ≤ 70 then n - 55 else 16
  if v < base then some v else none

/-- Read digits after the value `acc`. -/
def readDigits (base : Nat) : List Char → Nat → Option Nat
  | [], acc => some acc
  | c :: cs, acc =>
    match digitValue base c with
    | some d => readDigits base cs (base * acc + d)
    | none => none

/-- A decimal or `0x` hexadecimal number (R67). -/
def readNumber : List Char → Option Nat
  | [] => none
  | '0' :: 'x' :: d :: ds => readDigits 16 (d :: ds) 0
  | cs => readDigits 10 cs 0

/-- What stands before a `#`, which starts a comment (R67). -/
def stripComment (cs : List Char) : List Char := cs.takeWhile (fun c => decide (c ≠ '#'))

/-- Cut at commas. -/
def splitCommas : List Char → List (List Char)
  | [] => [[]]
  | c :: cs =>
    match splitCommas cs with
    | [] => [[]]
    | w :: ws => if c = ',' then [] :: w :: ws else (c :: w) :: ws

/-- Without the blanks at both ends. -/
def trimBlanks (cs : List Char) : List Char := ((cs.dropWhile isBlankChar).reverse.dropWhile isBlankChar).reverse

/-- The operands of a line: numbers separated by commas, possibly none (R67). -/
def readOperands (cs : List Char) : Option (List Nat) :=
  if trimBlanks cs = [] then some [] else (splitCommas cs).mapM (fun w => readNumber (trimBlanks w))

/-- The operand counts of R67's syntax column. -/
def mnemonicTable : List (List Char × (List Nat → Option Instr)) :=
  let none1 (i : Instr) : List Nat → Option Instr := fun ops => match ops with
    | [] => some i
    | _ => none
  [ ("nop".toList, none1 .nop),
    ("clear_all".toList, none1 .clearAll),
    ("clear_row".toList, fun ops => match ops with | [r] => some (.clearRow r) | _ => none),
    ("get".toList, fun ops => match ops with | [r, c] => some (.get r c) | _ => none),
    ("set".toList, fun ops => match ops with | [r, c, v] => some (.set r c (BitVec.ofNat 12 v)) | _ => none),
    ("set_row".toList, fun ops => match ops with | [r, v] => some (.setRow r (BitVec.ofNat 12 v)) | _ => none),
    ("set_all".toList, fun ops => match ops with | [v] => some (.setAll (BitVec.ofNat 12 v)) | _ => none),
    ("init".toList, none1 .init),
    ("initv".toList, fun ops => match ops with | [v] => some (.initv (BitVec.ofNat 12 v)) | _ => none),
    ("initialize".toList, fun ops => match ops with
      | [] => some .init
      | [v] => some (.initv (BitVec.ofNat 12 v))
      | _ => none),
    ("start".toList, none1 .start),
    ("stop".toList, none1 .stop),
    ("evt_off".toList, none1 .evtOff),
    ("evt_on".toList, none1 .evtOn) ]

/-- Look a mnemonic up. -/
def findMnemonic (name : List Char) : List (List Char × (List Nat → Option Instr)) → Option (List Nat → Option Instr)
  | [] => none
  | (n, f) :: rest => if name = n then some f else findMnemonic name rest

/-- Assemble one line: no command for an empty line, else one. A value wider than 12 bits is reduced modulo 4096, as
R63 asks of the host; a row or channel wider than its field is an error. -/
def assembleLine (line : List Char) : Except AsmError (Option Instr) :=
  let text := trimBlanks (stripComment line)
  if text = [] then .ok none
  else
    let name := text.takeWhile (fun c => !isBlankChar c)
    match findMnemonic name mnemonicTable with
    | none => .error .unknownMnemonic
    | some f =>
      match readOperands (text.dropWhile (fun c => !isBlankChar c)) with
      | none => .error .badNumber
      | some ops =>
        match f ops with
        | none => .error .wrongOperandCount
        | some i => if wellFormed i then .ok (some i) else .error .operandTooLarge

/-- A line of a listing, pseudo-instructions among them (R68). -/
inductive AsmLine where
  /-- A command of its own. -/
  | command (i : Instr)
  /-- `initialize`, with or without a value. -/
  | initBuffer (v : Option Gray)
  /-- `atomic`: the commands inside, bracketed by `evt_off` and `evt_on`. -/
  | atomic (body : List Instr)
  /-- `wait n`: `n` ticks with `CMD_VALID = 0`. -/
  | wait (n : Nat)
deriving DecidableEq, Repr

/-- A tick in which the host presents the command. -/
def InPorts.ofInstr (i : Instr) : InPorts := { rst := false, cmdValid := true, cmd := encode i }

/-- The commands a pseudo-instruction stands for (R68); `wait` stands for none. -/
def AsmLine.commands : AsmLine → List Instr
  | .command i => [i]
  | .initBuffer none => [.init]
  | .initBuffer (some v) => [.initv v]
  | .atomic body => .evtOff :: body ++ [.evtOn]
  | .wait _ => []

/-- The ticks a line takes when the port is ready in each of them. -/
def AsmLine.ticks : AsmLine → List InPorts
  | .wait n => List.replicate n InPorts.idle
  | l => l.commands.map InPorts.ofInstr

/-- The input ports of a listing, line after line. -/
def listingTicks (ls : List AsmLine) : List InPorts := ls.flatMap AsmLine.ticks

/-- `s` about to run a listing, its first tick being this one. -/
def State.withListing (s : State) (ls : List AsmLine) : State :=
  { s with port := (listingTicks ls).headD InPorts.idle, script := (listingTicks ls).tail }

end Sys2Proof.Machine
end

