-- ==== Sys2Proof/Tests/Slice0.lean ====
section
/-! SUPPORT. Tests of the model on fixed values. Expected values come from spec/95_test_vectors.md and from hand
calculation with the rules named; the last part shows, for every statement with hypotheses, states and operands that
meet them. -/

namespace Sys2Proof.Tests

open Sys2Proof Sys2Proof.Machine

/-! ### Helpers -/

/-- The next state, if there is one. -/
def nextOf (o : Host.Outcome State Fault Refusal) : Option State :=
  match o with
  | .next s => some s
  | .fault _ => none
  | .refused _ => none

/-- The fault, if there is one. -/
def faultOf (o : Host.Outcome State Fault Refusal) : Option Fault :=
  match o with
  | .fault f => some f
  | .next _ => none
  | .refused _ => none

/-- Configuration T's machine with its row 0 ending in the given bytes 21, 22, 23, the rest reading 5A. -/
def row5A (b21 b22 b23 : Byte) : State :=
  let m := fillRow [] 0 (fun _ => 0x5A#8) 21
  State.powerUp Config.configurationT (memWrite1 (memWrite1 (memWrite1 m 0 21 b21) 0 22 b22) 0 23 b23)

/-- Bytes 21 to 23 of row 0. -/
def tail3 (s : State) : List Byte := [memRead1 s.buf 0 21, memRead1 s.buf 0 22, memRead1 s.buf 0 23]

/-- Run a word from a state and read something off the next state. -/
def runWord {α : Type} (s : State) (w : Nat) (f : State → α) : Option α := (nextOf (step (s.withFetchWord 32 w))).map f

/-! ### Well-formedness: each check refuses an ill-formed term -/

theorem test_wf_clearRow_row : wellFormed (.clearRow 256) = false := by decide
theorem test_wf_get_row : wellFormed (.get 256 0) = false := by decide
theorem test_wf_get_channel : wellFormed (.get 0 256) = false := by decide
theorem test_wf_set_row : wellFormed (.set 256 0 0) = false := by decide
theorem test_wf_set_channel : wellFormed (.set 0 256 0) = false := by decide
theorem test_wf_setRow_row : wellFormed (.setRow 256 0) = false := by decide
theorem test_wf_largest : wellFormed (.set 255 255 0xFFF#12) = true := by decide

/-! ### Decoding: words written out bit by bit from R61 and R62 -/

theorem test_decode_nop : decodeTableWord 32 0b00001111111111111111111111111111 = some .nop := by decide
theorem test_decode_clearAll : decodeTableWord 32 0b00011111111100010010001101000101 = some .clearAll := by decide
theorem test_decode_clearRow : decodeTableWord 32 0b00101000000100000000000000000000 = some (.clearRow 0x81) := by decide
theorem test_decode_get : decodeTableWord 32 0b00110000001000000101101010111100 = some (.get 2 5) := by decide
theorem test_decode_set : decodeTableWord 32 0b01000000000100001111100000000001 = some (.set 1 15 0x801) := by decide
theorem test_decode_setRow : decodeTableWord 32 0b01011111111100000000000100100011 = some (.setRow 255 0x123) := by decide
theorem test_decode_setAll : decodeTableWord 32 0b01100000000000000000000100100011 = some (.setAll 0x123) := by decide
theorem test_decode_init : decodeTableWord 32 0b01110000000000000000000000000000 = some .init := by decide
theorem test_decode_initv : decodeTableWord 32 0b10000000000000000000100000000000 = some (.initv 0x800) := by decide
theorem test_decode_start : decodeTableWord 32 0b10011010101111001101111011110000 = some .start := by decide
theorem test_decode_stop : decodeTableWord 32 0b10100000000000000000000000000000 = some .stop := by decide
theorem test_decode_evtOff : decodeTableWord 32 0b10110000000000000000000000000000 = some .evtOff := by decide
theorem test_decode_evtOn : decodeTableWord 32 0b11000000000000000000000000000000 = some .evtOn := by decide
theorem test_decode_reservedD : decodeTableWord 32 0b11010000000000000000000000000000 = some .reservedD := by decide
theorem test_decode_reservedE : decodeTableWord 32 0b11100001001000110100010101100111 = some .reservedE := by decide
theorem test_decode_reservedF : decodeTableWord 32 0b11111111111111111111111111111111 = some .reservedF := by decide
theorem test_decode_tooWide : decode 33 0 = .error .widerThanWord := by rfl

/-! ### Packing and commands -/

/-- 95 2.1: channel 0 at byte 22, mid-byte; channel 1 at 21, aligned; channel 15 at 0. -/
theorem test_packing_map :
    [0, 1, 2, 7, 14, 15].map (bytePos Config.configurationT) = [22, 21, 19, 12, 1, 0] ∧
      [0, 1, 2, 15].map (midByte Config.configurationT) = [true, false, true, false] := by decide

/-- 95 1.3: scenario A from a row of 5A bytes. -/
theorem test_set_scenarioA : runWord (row5A 0x5A 0x5A 0x5A) 0x40000FFF tail3 = some [0x5A, 0x5F, 0xFF] := by decide
/-- 95 1.3: scenario B after it. -/
theorem test_set_scenarioB : runWord (row5A 0x5A 0x5F 0xFF) 0x40001000 tail3 = some [0x00, 0x0F, 0xFF] := by decide
/-- 95 1.3: channel 2 of the 5A row, and scenario A's read back. -/
theorem test_get : runWord (row5A 0x5A 0x5A 0x5A) 0x30002000 (fun s => (s.rdata, s.rvalid)) = some (0xA5A, true) ∧
    runWord (row5A 0x00 0x0F 0xFF) 0x30000000 (fun s => s.rdata) = some 0xFFF := by decide
/-- 95 2.3: the pattern of 0x123 in row 1, row 0 untouched. -/
theorem test_setRow : runWord (row5A 0 0 0) 0x50100123
    (fun s => ([0, 1, 2, 21, 22, 23].map (memRead1 s.buf 1), memRead1 s.buf 0 0)) =
      some ([0x12, 0x31, 0x23, 0x12, 0x31, 0x23], 0x5A) := by decide
/-- 95 2.4. -/
theorem test_clearRow : runWord (row5A 1 2 3) 0x20000000 (fun s => (tail3 s, memRead1 s.buf 0 0)) =
    some ([0, 0, 0], 0) := by decide
theorem test_clearAll : runWord (row5A 1 2 3) 0x1FF12345 (fun s => (tail3 s, memRead1 s.buf 1 23)) =
    some ([0, 0, 0], 0) := by decide
theorem test_init : runWord (row5A 1 2 3) 0x70000000 (fun s => (tail3 s, s.run)) = some ([0, 0, 0], false) := by decide
theorem test_setAll : runWord (row5A 1 2 3) 0x60000800 (fun s => (tail3 s, memRead1 s.buf 1 1)) =
    some ([0x80, 0x08, 0x00], 0x08) := by decide
theorem test_initv : runWord (row5A 1 2 3) 0x800000F0 (fun s => (tail3 s, memRead1 s.buf 1 0)) =
    some ([0x0F, 0x00, 0xF0], 0x0F) := by decide
theorem test_nop : runWord { row5A 1 2 3 with rvalid := true, rdata := 7 } 0x0FFFFFFF
    (fun s => (tail3 s, s.rvalid, s.rdata)) = some ([1, 2, 3], false, 7) := by decide

/-- R112 and 95 2.8: the counters are 0 in the tick after `start`, and go on where they were if it ran already. -/
theorem test_start : runWord State.reset 0x90000000 (fun s => (s.run, s.blPhase, s.gsPhase)) = some (true, 0, 0) ∧
    runWord { State.reset with run := true, blPhase := 599, gsPhase := 1 } 0x90000000 (fun s => (s.blPhase, s.gsPhase)) =
      some (0, 0) := by decide
/-- R113: a deferred event and the phases are dropped. -/
theorem test_stop : runWord { State.reset with run := true, blPhase := 6, evtEn := false, evtPend := true } 0xA0000000
    (fun s => (s.run, s.blPhase, s.evtPend, s.evtEn)) = some (false, 0, false, false) := by decide
/-- R131, R133: with events off the event of this tick is held. -/
theorem test_evtOff : runWord { State.reset with run := true, blPhase := 4, evtEn := false } 0xB0000000
    (fun s => (s.evtEn, s.evtPend, s.seqState)) = some (false, true, .idle) := by decide
/-- R132: the held event is accepted in the tick after. -/
theorem test_evtOn : runWord { State.reset with run := true, blPhase := 6, evtEn := false, evtPend := true } 0xC0000000
    (fun s => (s.evtEn, s.accept, s.cmdReady)) = some (true, true, false) := by decide

/-- 95 2.6; the record names the tick (R160). -/
theorem test_fault_row : faultOf (step ({ State.reset with tick := 7 }.withFetchWord 32 0x30210000)) =
    some (.preconditionViolation .row 0x30210000 7) := by decide
theorem test_fault_channel : faultOf (step (State.reset.withFetchWord 32 0x40010005)) =
    some (.preconditionViolation .channel 0x40010005 0) := by decide
theorem test_fault_reserved : faultOf (step (State.reset.withFetchWord 32 0xE1234567)) =
    some (.reservedCommand 0xE 0xE1234567 0) := by decide
/-- R163: a latch in a busy tick; a boundary in one. -/
theorem test_fault_torn : faultOf (step { State.reset with run := true, blPhase := 3, seqState := .busy, tick := 9 }) =
    some (.timingViolation .tornLatch 9) := by decide
theorem test_fault_missed : faultOf (step { State.reset with run := true, blPhase := 4, seqState := .busy, tick := 9 }) =
    some (.timingViolation .missedBoundary 9) := by decide

/-! ### The sequencer and the lines, 95 2.9 and 2.8 -/

/-- Ticks 8 to 12 of program P2: accepted, then set up, clock high, clock low, next bit; row 0 begins AB. -/
theorem test_shift_start :
    let s8 := { State.powerUp Config.configurationT (memWrite1 [] 0 0 0xAB) with run := true, blPhase := 4 }
    [1, 2, 3, 4].map (fun n => (after n s8).map (fun s => (s.sin, s.sclk, s.bitIdx, s.sub, s.nextRow))) =
      [some (true, false, 7, .setUp, 1), some (true, true, 7, .high, 1), some (true, false, 7, .low, 1),
       some (false, false, 6, .setUp, 1)] := by decide
/-- Tick 584 to 585 of program P2. -/
theorem test_shift_end :
    (nextOf (step { State.reset with run := true, blPhase := 580, seqState := .busy, nextRow := 1, byteIdx := 23,
                                     bitIdx := 0, sub := .low })).map
      (fun s => (s.seqState, s.byteIdx, s.bitIdx, s.cmdReady)) = some (.idle, 0, 7, true) := by decide
/-- 95 2.8: the levels at reset and in ticks 7 and 8 of the configuration T timeline. -/
theorem test_lines :
    [0, 3, 4].map (fun p => let s := { State.reset with run := true, blPhase := p, gsPhase := p % 2 }
                            (s.blank, s.xlat, s.gsclk, s.evtFire)) =
      [(true, false, false, false), (true, true, true, false), (false, false, false, true)] := by decide
/-- 95 2.7: item f with equality, and just beyond it; the slack of configuration T. -/
theorem test_config :
    (Cfg.withDefaults 2 1 578 4 1 2).Valid ∧ ¬ (Cfg.withDefaults 2 1 577 4 1 2).Valid ∧
      ¬ (Cfg.withDefaults 2 1 600 4 4 2).Valid ∧ Config.configurationT.slack = 22 ∧
      ({ Config.configurationT with rowCount := 4 } : Cfg).rowW = 2 ∧ Config.configurationT.rowW = 1 := by decide
/-- R67: a line with blanks, a hexadecimal number and a comment. -/
theorem test_assemble : assembleLine "set 1, 15, 0x800  # top".toList = .ok (some (.set 1 15 0x800#12)) := by rfl
theorem test_assemble_atomic : (AsmLine.atomic [.nop]).commands = [.evtOff, .nop, .evtOn] := by decide
/-- R143: the first two wire events of a shift of a row that begins with the bits 10. -/
theorem test_wire :
    wireTrace (portTrace 7 { State.reset with run := true, blPhase := 4 }) = [.bit true 0, .bit false 0] := by decide

/-! ### Every statement's hypotheses can be met -/

/-- The reset machine with a command on its port. -/
def cmd (w : Word) : State := State.reset.present w

/-- A machine in the tick its event is accepted. -/
def accepting : State := { State.reset with run := true, blPhase := 4 }

/-- A machine on time in the middle of a shift of row 0, whose bytes read A5: byte `b`, bit `k`, at the phase that
belongs to it. -/
def shifting (b : Nat) (k : Fin 8) (u : SubTick) : State :=
  { State.reset with run := true, blPhase := (5 + ((8 * b + (7 - k.val)) * 3 + u.num)) % 600, seqState := .busy,
                     nextRow := 1, byteIdx := b, bitIdx := k, sub := u, sin := (0xA5#8).getLsbD k.val,
                     sclk := decide (u = .high) }

theorem reset_inv : Inv State.reset := by
  refine ⟨?_, ?_, ?_, ?_, ?_, ?_, ?_, ?_, ?_, ?_, ?_, ?_, ?_⟩ <;> decide
theorem cmd_inv (w : Word) : Inv (cmd w) :=
  ⟨reset_inv.valid, reset_inv.bufWf, reset_inv.bufInside, reset_inv.blRange, reset_inv.gsRange, reset_inv.stopped,
    reset_inv.nextRowRange, reset_inv.rowaddrRange, reset_inv.byteRange, reset_inv.atRest, reset_inv.clockLine,
    reset_inv.dataLine, reset_inv.rowOrder⟩
theorem accepting_inv : Inv accepting := by
  refine ⟨?_, ?_, ?_, ?_, ?_, ?_, ?_, ?_, ?_, ?_, ?_, ?_, ?_⟩ <;> decide
theorem shifting_inv : Inv (shifting 23 0 .low) := by
  refine ⟨?_, ?_, ?_, ?_, ?_, ?_, ?_, ?_, ?_, ?_, ?_, ?_, ?_⟩ <;> decide
theorem accepting_acceptsAfter : AcceptsAfter accepting 0 :=
  ⟨accepting_inv, by decide, by decide, by decide, by decide⟩
/-- An event accepted 23 ticks late, one more than the slack. -/
theorem late_acceptsAfter : AcceptsAfter { accepting with blPhase := 27, evtPend := true } 23 := by
  refine ⟨⟨?_, ?_, ?_, ?_, ?_, ?_, ?_, ?_, ?_, ?_, ?_, ?_, ?_⟩, ?_, ?_, ?_, ?_⟩ <;> decide
theorem start_starting : Starting (cmd 0x90000000#32) :=
  ⟨cmd_inv _, by decide, by decide, by decide, by decide, by decide⟩
theorem accepting_onTime : OnTime accepting := ⟨by decide, by decide, fun h => absurd h (by decide)⟩
theorem shifting_onTime : OnTime (shifting 23 0 .low) := ⟨by decide, by decide, fun _ => by unfold State.lateBy; decide⟩

/-- What the per-tick statements about a taken command ask of `s`. -/
abbrev Takes (s : State) (i : Instr) : Prop :=
  s.cfg.Valid ∧ s.port.rst = false ∧ s.timingFault = none ∧ s.cmdTaken = true ∧ s.command = i

/-- What the per-tick statements about a shift ask of `s`. -/
abbrev Shifts (s : State) (u : SubTick) : Prop :=
  s.cfg.Valid ∧ s.port.rst = false ∧ s.timingFault = none ∧ s.seqState = .busy ∧ s.sub = u

/-- What the statements about buffer commands ask of `s` and the operands: a valid configuration, a canonical buffer,
and, at the largest legal and the smallest illegal index, either side of each range check. -/
abbrev BufferReady (s : State) : Prop :=
  s.cfg.Valid ∧ s.buf.wf ∧ 1 < s.cfg.rowCount ∧ s.cfg.rowCount ≤ 2 ∧ 15 < s.cfg.nCh ∧ s.cfg.nCh ≤ 16

theorem wit_EncodedCommandDecodesToItself : WellFormed (.set 255 255 0xFFF#12) := by decide
theorem wit_UnusedFieldsAreIgnored :
    0x1FF12345#32 &&& usedMask 0x1FF12345#32 = 0x10000000#32 &&& usedMask 0x10000000#32 ∧
      opField 0x1FF00000#32 = 0x1#4 ∧ WellFormed (.clearRow 255) ∧
      (∃ t, step (State.reset.present 0x1FF12345#32) = .next t) ∧
      0x20200001#32 &&& usedMask 0x20200001#32 = 0x20200000#32 &&& usedMask 0x20200000#32 ∧
      ∃ f, step (State.reset.present 0x20200001#32) = .fault f ∧
        step (State.reset.present 0x20200000#32) = .fault (f.withWord 0x20200000#32) :=
  ⟨by decide, by decide, by decide, ⟨_, rfl⟩, by decide, ⟨_, rfl, rfl⟩⟩
theorem wit_StepRunsTheDecodedCommand :
    Takes (cmd 0x40000FFF#32) (.set 0 0 0xFFF#12) ∧ State.reset.cmdTaken = false ∧ State.reset.cfg.Valid ∧
      State.reset.port.rst = false ∧ State.reset.timingFault = none := by decide
theorem wit_PlacedWordRunsInTheNextStep : (shifting 0 7 .high).cfg.Valid ∧ accepting.cfg.Valid := by decide
theorem wit_UnreadyPortIgnoresTheHost : accepting.cmdReady = false ∧ (shifting 0 7 .setUp).cmdReady = false := by decide
theorem wit_NopTickIsAnEmptyTick : opField 0x0FFFFFFF#32 = 0x0#4 := by decide
theorem wit_ResetTickGivesTheResetState :
    ({ shifting 3 2 .high with port := ⟨true, true, 0⟩ } : State).cfg.Valid ∧
      ({ shifting 3 2 .high with port := ⟨true, true, 0⟩ } : State).port.rst = true := by decide
theorem wit_InvalidConfigurationIsRefused :
    ¬ (Cfg.withDefaults 0 1 600 4 1 2).Valid ∧ Config.configurationT.Valid ∧
      ¬ ({ State.reset with cfg := Cfg.withDefaults 2 1 577 4 1 2 } : State).cfg.Valid ∧
      step { State.reset with cfg := Cfg.withDefaults 2 1 577 4 1 2 } =
        .refused (.configViolation (Cfg.withDefaults 2 1 577 4 1 2)) := ⟨by decide, by decide, by decide, rfl⟩
theorem wit_TimingViolationsAreRaisedExactly : (shifting 0 7 .setUp).cfg.Valid ∧ (shifting 0 7 .setUp).port.rst = false := by
  decide
theorem wit_ResetMeetsTheInvariant :
    Config.configurationT.Valid ∧ Memory.wf [(0, 0x5A#8), (512 + 23, 0#8)] ∧
      Memory.inRowSet Config.configurationT [(0, 0x5A#8), (512 + 23, 0#8)] := by decide
theorem wit_EveryStepKeepsTheInvariant :
    Inv (shifting 23 0 .low) ∧ (∃ t, step (shifting 23 0 .low) = .next t) ∧ Inv accepting ∧ ∃ t, step accepting = .next t :=
  ⟨shifting_inv, ⟨_, rfl⟩, accepting_inv, ⟨_, rfl⟩⟩
theorem wit_ConfigurationNeverChanges : ∃ t, step State.reset = .next t := ⟨_, rfl⟩
theorem wit_OnlyBufferCommandsChangeTheBuffer : ∃ t, step (cmd 0x10000000#32) = .next t := ⟨_, rfl⟩
theorem wit_BufferContentsNeverSteerTheMachine :
    (∃ t, step accepting = .next t) ∧ (∃ f, step (cmd 0x30200000#32) = .fault f) ∧
      ∃ r, step { State.reset with cfg := Cfg.withDefaults 2 1 577 4 1 2 } = .refused r := ⟨⟨_, rfl⟩, ⟨_, rfl⟩, ⟨_, rfl⟩⟩
theorem wit_ClearAllZeroesEveryByte : BufferReady State.reset ∧ opField 0x1FF12345#32 = 0x1#4 := by decide
theorem wit_ClearRowZeroesOneRow : BufferReady State.reset ∧ opField 0x20100000#32 = 0x2#4 := by decide
theorem wit_GetReadsTheChannelByThePackingFormulas :
    BufferReady State.reset ∧ opField 0x30000000#32 = 0x3#4 ∧ Takes (cmd 0x3010F000#32) (.get 1 15) ∧
      ∃ t u, step (cmd 0x3010F000#32) = .next t ∧ step t = .next u ∧ t.port.rst = false ∧ t.cmdTaken = false :=
  ⟨by decide, by decide, by decide, ⟨_, _, rfl, rfl, rfl, by decide⟩⟩
theorem wit_SetWritesTheChannelByThePackingFormulas : BufferReady State.reset ∧ opField 0x40000FFF#32 = 0x4#4 := by decide
theorem wit_SetRowFillsTheRowWithThePattern : BufferReady State.reset ∧ opField 0x50000ABC#32 = 0x5#4 := by decide
theorem wit_SetAllAppliesSetRowToEveryRow : BufferReady State.reset ∧ opField 0x60000123#32 = 0x6#4 := by decide
theorem wit_InitialisationFillsTheBufferOnly :
    BufferReady State.reset ∧ opField 0x70000000#32 = 0x7#4 ∧ opField 0x80000800#32 = 0x8#4 := by decide
theorem wit_SetThenGetReturnsTheValue : BufferReady State.reset := by decide
theorem wit_SetLeavesEveryOtherChannelAlone : BufferReady State.reset ∧ (0, 14) ≠ (0, 15) ∧ (1, 15) ≠ (0, 15) := by decide
theorem wit_SetRowEqualsSettingEveryChannel :
    BufferReady State.reset ∧ ∀ c, c ∈ List.range 16 ↔ c < Config.configurationT.nCh :=
  ⟨by decide, fun _ => by simp [Config.configurationT, Cfg.nCh]⟩
theorem wit_ClearedRowReadsZero : BufferReady State.reset := by decide
theorem wit_EveryCommandIsIdempotent : BufferReady State.reset ∧ ∃ t, exec (.set 1 15 0#12) State.reset = .next t :=
  ⟨by decide, ⟨_, rfl⟩⟩
theorem wit_RowIsABitStringOfChannels : Config.configurationT.Valid ∧ 7 < Config.configurationT.nCh / 2 := by decide
theorem wit_ChannelBytesLieInsideTheRow : Config.configurationT.Valid ∧ 15 < Config.configurationT.nCh := by decide
theorem wit_OutOfRangeIndexesAreRaised :
    Takes (cmd 0x30200000#32) (.get 2 0) ∧ Takes (cmd 0x30010000#32) (.get 0 16) ∧ BufferReady (cmd 0x30200000#32) := by decide
theorem wit_ReservedOpcodesAreRaised :
    Takes (cmd 0xD0000000#32) .reservedD ∧ Takes (cmd 0xE0000000#32) .reservedE ∧ Takes (cmd 0xFFFFFFFF#32) .reservedF ∧
      0xD ≤ (opField 0xD0000000#32).toNat := by decide
theorem wit_ReadDataFollowsTheAcceptedGet :
    Takes (cmd 0x30101000#32) (.get 1 1) ∧ (∃ t, step (cmd 0x30101000#32) = .next t) ∧
      ∃ t, step { State.reset with port := ⟨true, false, 0⟩ } = .next t := ⟨by decide, ⟨_, rfl⟩, ⟨_, rfl⟩⟩
theorem wit_StartSetsRunOnly :
    Takes (cmd 0x90000000#32) .start ∧ (cmd 0x90000000#32).run = false ∧ opField 0x90000000#32 = 0x9#4 ∧
      Takes { cmd 0x90000000#32 with run := true, blPhase := 599 } .start := by decide
theorem wit_StopClearsTheGenerator :
    Takes { cmd 0xA0000000#32 with run := true, blPhase := 4, evtEn := false } .stop ∧ opField 0xA0000000#32 = 0xA#4 := by decide
theorem wit_PhaseCountersAdvance :
    (∃ t, step { cmd 0xA0000000#32 with run := true, blPhase := 599 } = .next t) ∧ (cmd 0xA0000000#32).stopTaken = true ∧
      (∃ t, step (shifting 0 7 .high) = .next t) ∧ (shifting 0 7 .high).stopTaken = false ∧
      (∃ t, step State.reset = .next t) ∧ State.reset.stopTaken = false ∧ State.reset.run = false ∧
      ∃ t, step (cmd 0x90000000#32) = .next t ∧ t.run = true :=
  ⟨⟨_, rfl⟩, by decide, ⟨_, rfl⟩, by decide, ⟨_, rfl⟩, by decide, rfl, ⟨_, rfl, rfl⟩⟩
theorem wit_LatchPulseIsNestedInBlank :
    State.reset.cfg.Valid ∧ ({ State.reset with blPhase := 3 } : State).xlat = true ∧ State.reset.blPhase = 0 ∧
      ({ State.reset with blPhase := 4 } : State).blank = false := by decide
theorem wit_StoppedLinesAreDark : Inv State.reset ∧ State.reset.run = false := ⟨reset_inv, rfl⟩
theorem wit_LinesArePeriodicAfterStart :
    Inv (cmd 0x90000000#32) ∧ (cmd 0x90000000#32).run = false ∧ (cmd 0x90000000#32).cmdTaken = true ∧
      (cmd 0x90000000#32).command = .start ∧ (cmd 0x90000000#32).goesOn = true ∧ ∃ t, after 2 (cmd 0x90000000#32) = some t :=
  ⟨cmd_inv _, by decide, by decide, by decide, by decide, ⟨_, rfl⟩⟩
theorem wit_EventsOffHoldsEventsBack :
    Takes { cmd 0xB0000000#32 with run := true, blPhase := 5 } .evtOff ∧
      Takes { cmd 0xB0000000#32 with run := true, blPhase := 4, evtEn := false } .evtOff ∧ opField 0xB0000000#32 = 0xB#4 := by
  decide
theorem wit_EventsOnAcceptsADeferredEvent :
    Takes { cmd 0xC0000000#32 with run := true, blPhase := 5, evtEn := false, evtPend := true } .evtOn ∧
      opField 0xC0000000#32 = 0xC#4 := by decide
theorem wit_UnacceptedEventIsRemembered :
    (∃ t, step { State.reset with run := true, blPhase := 4, evtEn := false } = .next t) ∧
      ({ accepting with evtPend := true } : State).evtFire = true ∧ ({ accepting with evtPend := true } : State).cfg.Valid :=
  ⟨⟨_, rfl⟩, by decide, by decide⟩
theorem wit_AcceptedEventSelectsTheNextRow :
    accepting.cfg.Valid ∧ accepting.port.rst = false ∧ accepting.timingFault = none ∧ accepting.accept = true ∧
      (∃ t, step State.reset = .next t) ∧ State.reset.accept = false ∧
      (∃ t, step { State.reset with port := ⟨true, false, 0⟩ } = .next t) ∧
      ∃ t, step { accepting with cfg := Cfg.withDefaults 1 1 600 4 1 2 } = .next t :=
  ⟨by decide, by decide, by decide, by decide, ⟨_, rfl⟩, by decide, ⟨_, rfl⟩, ⟨_, rfl⟩⟩
theorem wit_BitCellPulsesTheClock : Shifts (shifting 0 7 .setUp) .setUp ∧ Shifts (shifting 23 0 .high) .high := by decide
theorem wit_SequencerAdvancesToTheNextBit :
    Shifts (shifting 22 0 .low) .low ∧ Shifts (shifting 23 1 .low) .low ∧
      ¬ ((shifting 22 0 .low).bitIdx.val = 0 ∧ (shifting 22 0 .low).byteIdx = (shifting 22 0 .low).cfg.rowBytes - 1) ∧
      ¬ ((shifting 23 1 .low).bitIdx.val = 0 ∧ (shifting 23 1 .low).byteIdx = (shifting 23 1 .low).cfg.rowBytes - 1) := by
  decide
theorem wit_SequencerEndsAfterTheLastBit :
    Shifts (shifting 23 0 .low) .low ∧ (shifting 23 0 .low).bitIdx.val = 0 ∧
      (shifting 23 0 .low).byteIdx = (shifting 23 0 .low).cfg.rowBytes - 1 ∧
      Shifts { shifting 23 0 .low with evtPend := true } .low ∧
      ({ shifting 23 0 .low with evtPend := true } : State).evtReq = true := by decide
theorem wit_IdleLinesHoldTheirLevels :
    Inv State.reset ∧ State.reset.seqState = .idle ∧ (∃ t, step State.reset = .next t) ∧ State.reset.port.rst = false ∧
      State.reset.accept = false := ⟨reset_inv, rfl, ⟨_, rfl⟩, rfl, by decide⟩
theorem wit_NoShiftStartsWhileEventsAreOff :
    (∃ t, step { accepting with evtEn := false } = .next t) ∧ ({ accepting with evtEn := false } : State).port.rst = false ∧
      (∃ t, step { cmd 0xC0000000#32 with evtEn := false } = .next t ∧ t.evtEn = true) ∧
      ∃ t, step (cmd 0xB0000000#32) = .next t ∧ t.evtEn = false := ⟨⟨_, rfl⟩, rfl, ⟨_, rfl, rfl⟩, ⟨_, rfl, rfl⟩⟩
theorem wit_EveryFaultRecordNamesItsTick :
    (∃ f, step { accepting with evtPend := true } = .fault f) ∧ (∃ f, step (cmd 0x30200000#32) = .fault f) ∧
      ∃ f, step (cmd 0xE1234567#32) = .fault f := ⟨⟨_, rfl⟩, ⟨_, rfl⟩, ⟨_, rfl⟩⟩
theorem wit_ShiftPutsTheWholeRowOnTheWire : AcceptsAfter accepting 0 ∧ 0 ≤ accepting.cfg.slack ∧ 191 < accepting.cfg.rowBits :=
  ⟨accepting_acceptsAfter, by decide, by decide⟩
theorem wit_SlackIsTheExactBound :
    (AcceptsAfter accepting 0 ∧ accepting.cfg.eventPhase + 0 < accepting.cfg.pBlank + accepting.cfg.latchStart) ∧
      AcceptsAfter { accepting with blPhase := 27, evtPend := true } 23 ∧
      accepting.cfg.eventPhase + 23 < accepting.cfg.pBlank + accepting.cfg.latchStart :=
  ⟨⟨accepting_acceptsAfter, by decide⟩, late_acceptsAfter, by decide⟩
theorem wit_CalmMachineNeverFaults :
    Inv (shifting 23 0 .low) ∧ OnTime (shifting 23 0 .low) ∧ (shifting 23 0 .low).calm = true :=
  ⟨shifting_inv, shifting_onTime, by decide⟩
theorem wit_SteadyStateShiftsAndLatchesEveryRow : Starting (cmd 0x90000000#32) ∧ (cmd 0x90000000#32).calm = true :=
  ⟨start_starting, by decide⟩
theorem wit_NoRowIsStarved :
    Starting (cmd 0x90000000#32) ∧ (cmd 0x90000000#32).calm = true ∧ 1 < (cmd 0x90000000#32).cfg.rowCount :=
  ⟨start_starting, by decide, by decide⟩
theorem wit_HostCallsAreServedInTime :
    Inv accepting ∧ OnTime accepting ∧ (∃ t, exec (decodeWord 0xA0000000#32) accepting = .next t) ∧
      (∃ t, exec (decodeWord 0xB0000000#32) accepting = .next t) ∧ Inv (shifting 23 0 .low) ∧ OnTime (shifting 23 0 .low) ∧
      (∃ t, callUntilTaken 0xB0000000#32 2 (shifting 23 0 .low) = some t ∧ t.evtEn = false) ∧
      1 < accepting.cfg.rowCount ∧ 15 < accepting.cfg.nCh :=
  ⟨accepting_inv, accepting_onTime, ⟨_, rfl⟩, ⟨_, rfl⟩, shifting_inv, shifting_onTime, ⟨_, rfl, rfl⟩, by decide, by decide⟩

end Sys2Proof.Tests
end

section
/-! PROOFS. Where a refusal comes from: an invalid configuration, in `build` and in a tick, and nothing else (R8,
R164). -/

namespace Sys2Proof.Machine

theorem build_of_valid {c : Cfg} (hv : c.Valid) (b : Memory) : build c b = .next (State.powerUp c b) := if_pos hv

theorem build_of_not_valid {c : Cfg} (hv : ¬ c.Valid) (b : Memory) : build c b = .refused (.configViolation c) :=
  if_neg hv

/-- The validity check comes first in a tick, before reset and the fault conditions. -/
theorem clockTick_of_not_valid {s : State} (hv : ¬ s.cfg.Valid) : clockTick s = .refused (.configViolation s.cfg) :=
  if_neg hv

theorem commandStep_not_refused (s : State) (r : Refusal) : s.commandStep ≠ .refused r := by
  cases ht : s.cmdTaken with
  | false => rw [commandStep_idle ht]; nofun
  | true => rw [commandStep_taken ht]; exact exec_not_refused _ _ _

/-- Everything a refused tick can be: the companion of `clockTick_cases` and `clockTick_fault`. -/
theorem clockTick_refused {s : State} {r : Refusal} (h : clockTick s = .refused r) :
    ¬ s.cfg.Valid ∧ r = .configViolation s.cfg := by
  unfold clockTick at h
  split at h
  · split at h
    · cases h
    · split at h
      · cases h
      · split at h
        · cases h
        · cases h
        · next hs => exact absurd hs (commandStep_not_refused s _)
  · next hv => cases h; exact ⟨hv, rfl⟩

/-- Settles O11: the validity check is the first thing `build` and a tick do, and behind it no branch of a tick refuses,
as no command does. -/
theorem invalidConfigurationIsRefused : Obligations.InvalidConfigurationIsRefused :=
  ⟨fun _ b hv => build_of_not_valid hv b, fun _ hv => clockTick_of_not_valid hv, fun _ b hv => build_of_valid hv b,
    fun _ _ h => (clockTick_refused h).1⟩

end Sys2Proof.Machine
end

section
/-! PROOFS. The tick one branch at a time, and what the command step (R30 step 3) can do whether or not a command is
taken: the layer the statements about every tick rest on. -/

namespace Sys2Proof.Machine

/-! ### The branches of a tick, run forwards: the companions of `clockTick_next` -/

theorem clockTick_reset {s : State} (hv : s.cfg.Valid) (hr : s.port.rst = true) :
    clockTick s = .next s.applyReset.advancePort := by
  unfold clockTick
  rw [if_pos hv, if_pos hr]

theorem clockTick_of_timingFault {s : State} {k : TimingKind} (hv : s.cfg.Valid) (hr : s.port.rst = false)
    (hf : s.timingFault = some k) : clockTick s = .fault (.timingViolation k s.tick) := by
  unfold clockTick
  rw [if_pos hv, hr, hf]
  rfl

theorem clockTick_of_commandFault {s : State} {f : Fault} (hv : s.cfg.Valid) (hr : s.port.rst = false)
    (hf : s.timingFault = none) (hs : s.commandStep = .fault f) : clockTick s = .fault f := by
  unfold clockTick
  rw [if_pos hv, hr, hf, hs]
  rfl

/-! ### The command step -/

/-- What step 3 leaves unchanged in every tick: the companion of `exec_keeps`. -/
theorem commandStep_keeps {s s1 : State} (h : s.commandStep = .next s1) :
    s1.cfg = s.cfg ∧ s1.seqState = s.seqState ∧ s1.nextRow = s.nextRow ∧ s1.rowaddr = s.rowaddr ∧
    s1.byteIdx = s.byteIdx ∧ s1.bitIdx = s.bitIdx ∧ s1.sub = s.sub ∧ s1.sin = s.sin ∧ s1.sclk = s.sclk ∧
    s1.port = s.port ∧ s1.script = s.script ∧ s1.tick = s.tick := by
  rcases commandStep_cases h with ⟨-, rfl⟩ | ⟨-, he⟩
  · exact ⟨rfl, rfl, rfl, rfl, rfl, rfl, rfl, rfl, rfl, rfl, rfl, rfl⟩
  · exact exec_keeps he

theorem commandStep_cfg {s s1 : State} (h : s.commandStep = .next s1) : s1.cfg = s.cfg := (commandStep_keeps h).1

theorem commandStep_seqState {s s1 : State} (h : s.commandStep = .next s1) : s1.seqState = s.seqState :=
  (commandStep_keeps h).2.1

/-- A busy sequencer lets no command in (R31). -/
theorem commandStep_of_busy {s s1 : State} (h : s.commandStep = .next s1) (hb : s.seqState = .busy) :
    s1 = s.dropRvalid := by
  rw [commandStep_idle (State.not_taken_of_busy hb)] at h
  cases h; rfl

theorem commandStep_buf_wf {s s1 : State} (h : s.commandStep = .next s1) (hm : s.buf.wf) : s1.buf.wf := by
  rcases commandStep_cases h with ⟨-, rfl⟩ | ⟨-, he⟩
  · exact hm
  · exact exec_buf_wf he hm

theorem commandStep_buf_inRowSet {s s1 : State} (h : s.commandStep = .next s1) (hv : s.cfg.Valid)
    (hm : s.buf.inRowSet s.cfg) : s1.buf.inRowSet s.cfg := by
  rcases commandStep_cases h with ⟨-, rfl⟩ | ⟨-, he⟩
  · exact hm
  · exact exec_buf_inRowSet he hv hm

/-- A tick that takes no `STOP` leaves a machine stopped only if it was (R111). -/
theorem commandStep_run {s s1 : State} (h : s.commandStep = .next s1) (hstop : s.stopTaken = false)
    (hr : s1.run = false) : s.run = false := by
  rcases commandStep_cases h with ⟨-, rfl⟩ | ⟨ht, he⟩
  · exact hr
  · refine exec_run he (fun hc => ?_) hr
    rw [s.stopTaken_iff.mpr ⟨ht, hc⟩] at hstop
    cases hstop

end Sys2Proof.Machine
end

section
/-! PROOFS. Every tick keeps the invariant. The part of `Inv` that speaks of the sequencer is kept by each of the
operations a tick is composed of; the counters and the stopped machine are looked at over the whole tick. -/

namespace Sys2Proof.Machine

/-- The clauses of `Inv` about the row pointers, the sequencer position and the serial lines (R21 to R25, R137): what
each operation of a tick keeps by itself. -/
structure SequencerInv (s : State) : Prop where
  nextRowRange : s.nextRow < s.cfg.rowCount
  rowaddrRange : s.rowaddr < s.cfg.rowCount
  byteRange : s.byteIdx < s.cfg.rowBytes
  atRest : s.seqState = .idle → s.byteIdx = 0 ∧ s.bitIdx = 7 ∧ s.sub = .setUp ∧ s.sclk = false
  clockLine : s.seqState = .busy → (s.sclk = true ↔ s.sub = .high)
  dataLine : s.seqState = .busy → s.sin = memBit s.buf s.rowaddr s.byteIdx s.bitIdx.val
  rowOrder : s.seqState = .busy → s.nextRow = (s.rowaddr + 1) % s.cfg.rowCount

theorem Inv.sequencerInv {s : State} (h : Inv s) : SequencerInv s where
  nextRowRange := h.nextRowRange
  rowaddrRange := h.rowaddrRange
  byteRange := h.byteRange
  atRest := h.atRest
  clockLine := h.clockLine
  dataLine := h.dataLine
  rowOrder := h.rowOrder

namespace SequencerInv

variable {s s1 : State}

/-- Step 3: a busy sequencer sees no command, and at rest nothing speaks of the buffer. -/
theorem commandStep (h : SequencerInv s) (hs : s.commandStep = .next s1) : SequencerInv s1 := by
  cases hb : s.seqState with
  | busy =>
    rw [commandStep_of_busy hs hb]
    exact ⟨h.nextRowRange, h.rowaddrRange, h.byteRange, h.atRest, h.clockLine, h.dataLine, h.rowOrder⟩
  | idle =>
    obtain ⟨hcfg, hseq, hnext, hrow, hbyte, hbit, hsub, -, hsclk, -⟩ := commandStep_keeps hs
    have hidle : s1.seqState = .idle := hseq.trans hb
    exact {
      nextRowRange := by rw [hnext, hcfg]; exact h.nextRowRange
      rowaddrRange := by rw [hrow, hcfg]; exact h.rowaddrRange
      byteRange := by rw [hbyte, hcfg]; exact h.byteRange
      atRest := fun _ => by rw [hbyte, hbit, hsub, hsclk]; exact h.atRest hb
      clockLine := fun hbusy => by cases hidle.symm.trans hbusy
      dataLine := fun hbusy => by cases hidle.symm.trans hbusy
      rowOrder := fun hbusy => by cases hidle.symm.trans hbusy }

theorem bookEvent (h : SequencerInv s) (req acc stop : Bool) : SequencerInv (s.bookEvent req acc stop) :=
  ⟨h.nextRowRange, h.rowaddrRange, h.byteRange, h.atRest, h.clockLine, h.dataLine, h.rowOrder⟩

theorem advanceCounters (h : SequencerInv s) (run stop : Bool) : SequencerInv (s.advanceCounters run stop) := by
  constructor <;> simp only [State.advanceCounters_cfg, State.advanceCounters_buf, State.advanceCounters_seqState,
    State.advanceCounters_nextRow, State.advanceCounters_rowaddr, State.advanceCounters_byteIdx,
    State.advanceCounters_bitIdx, State.advanceCounters_sub, State.advanceCounters_sin, State.advanceCounters_sclk]
  exacts [h.nextRowRange, h.rowaddrRange, h.byteRange, h.atRest, h.clockLine, h.dataLine, h.rowOrder]

theorem advancePort (h : SequencerInv s) : SequencerInv s.advancePort :=
  ⟨h.nextRowRange, h.rowaddrRange, h.byteRange, h.atRest, h.clockLine, h.dataLine, h.rowOrder⟩

/-- Acceptance selects the next row and puts its first bit on the data line (R135, R136). -/
theorem takeEvent (h : SequencerInv s) : SequencerInv s.takeEvent where
  nextRowRange := Nat.mod_lt _ (Nat.zero_lt_of_lt h.nextRowRange)
  rowaddrRange := h.nextRowRange
  byteRange := Nat.zero_lt_of_lt h.byteRange
  atRest := nofun
  clockLine := fun _ => by simp
  dataLine := fun _ => rfl
  rowOrder := fun _ => rfl

/-- The clock falls with the last third's beginning, so it is low when the shift ends (R139). -/
theorem endShift (h : SequencerInv s) (hclk : s.sclk = false) : SequencerInv s.endShift where
  nextRowRange := h.nextRowRange
  rowaddrRange := h.rowaddrRange
  byteRange := Nat.zero_lt_of_lt h.byteRange
  atRest := fun _ => ⟨rfl, rfl, rfl, hclk⟩
  clockLine := nofun
  dataLine := nofun
  rowOrder := nofun

/-- The byte position stays in the row, since the bit passed was not the row's last (R138). -/
theorem nextBit (h : SequencerInv s) (hb : s.seqState = .busy) (hclk : s.sclk = false) (hl : s.atLastBit = false) :
    SequencerInv s.nextBit where
  nextRowRange := by simpa using h.nextRowRange
  rowaddrRange := by simpa using h.rowaddrRange
  byteRange := by
    have hbyte := h.byteRange
    rw [State.nextBit_cfg]
    unfold State.nextBit
    split
    · exact hbyte
    · next hbit =>
      have hne : s.byteIdx + 1 ≠ s.cfg.rowBytes := fun heq => by
        simp [State.atLastBit, heq, Nat.eq_zero_of_not_pos hbit] at hl
      exact Nat.lt_of_le_of_ne hbyte hne
  atRest := fun hi => by rw [State.nextBit_seqState, hb] at hi; cases hi
  clockLine := fun _ => by simp [hclk]
  dataLine := fun _ => by unfold State.nextBit; split <;> rfl
  rowOrder := fun _ => by simpa using h.rowOrder hb

/-- Within a bit cell only the clock line and the third of the cell change (R137). -/
theorem withinCell (h : SequencerInv s) (hb : s.seqState = .busy) {clk : Bool} {third : SubTick}
    (hclk : clk = true ↔ third = .high) : SequencerInv { s with sclk := clk, sub := third } where
  nextRowRange := h.nextRowRange
  rowaddrRange := h.rowaddrRange
  byteRange := h.byteRange
  atRest := fun hi => by cases hb.symm.trans hi
  clockLine := fun _ => hclk
  dataLine := h.dataLine
  rowOrder := h.rowOrder

/-- The three thirds of a bit cell (R137 to R139). -/
theorem shiftTick (h : SequencerInv s) (hb : s.seqState = .busy) : SequencerInv s.shiftTick := by
  cases hsub : s.sub with
  | setUp => rw [State.shiftTick_setUp hsub]; exact h.withinCell hb (by decide)
  | high => rw [State.shiftTick_high hsub]; exact h.withinCell hb (by decide)
  | low =>
    have hclk : s.sclk = false := by simpa [hsub] using h.clockLine hb
    cases hl : s.atLastBit with
    | true => rw [State.shiftTick_low_last hsub hl]; exact h.endShift hclk
    | false => rw [State.shiftTick_low_next hsub hl]; exact h.nextBit hb hclk hl

theorem sequence (h : SequencerInv s) (acc : Bool) : SequencerInv (s.sequence acc) := by
  cases acc with
  | true => exact h.takeEvent
  | false =>
    cases hb : s.seqState with
    | busy => rw [State.sequence_busy hb]; exact h.shiftTick hb
    | idle => rw [State.sequence_idle hb]; exact h

theorem finishTick (h : SequencerInv s1) (s : State) : SequencerInv (s.finishTick s1) :=
  (((h.bookEvent _ _ _).sequence _).advanceCounters _ _).advancePort

end SequencerInv

/-! ### A stopped machine -/

/-- A stopped machine has no event to accept (R111, R118). -/
theorem Inv.evtReq_of_stopped {s : State} (h : Inv s) (hr : s.run = false) : s.evtReq = false := by
  obtain ⟨-, -, hpend, -⟩ := h.stopped hr
  simp [State.evtReq, State.evtFire, hr, hpend]

/-- After a tick that leaves the machine stopped, by `STOP` or because it was, the phases are 0, nothing pends and no
shift runs (R111, R113). -/
theorem Inv.finishTick_stopped {s s1 : State} (h : Inv s) (hs : s.commandStep = .next s1) (hr : s1.run = false) :
    (s.finishTick s1).blPhase = 0 ∧ (s.finishTick s1).gsPhase = 0 ∧ (s.finishTick s1).evtPend = false ∧
      (s.finishTick s1).seqState = .idle := by
  have hidle_kept (ha : s.accept = false) (hi : s.seqState = .idle) : (s.finishTick s1).seqState = .idle := by
    have hi1 : s1.seqState = .idle := (commandStep_seqState hs).trans hi
    rw [State.finishTick_seqState, ha, State.sequence_idle hi1, hi1]
  cases hstop : s.stopTaken with
  | true =>
    obtain ⟨-, hi, ha⟩ := s.cmdTaken_iff.mp (s.stopTaken_iff.mp hstop).1
    exact ⟨by simp [hstop], by simp [hstop], by simp [hstop], hidle_kept ha hi⟩
  | false =>
    have hr0 := commandStep_run hs hstop hr
    have hreq := h.evtReq_of_stopped hr0
    obtain ⟨-, -, -, hi⟩ := h.stopped hr0
    exact ⟨by simp [hr0], by simp [hr0], by simp [hreq], hidle_kept (by simp [State.accept, hreq]) hi⟩

/-! ### The two kinds of completing tick -/

/-- A tick without reset: steps 3 to 6 keep the invariant. -/
theorem Inv.finishTick {s s1 : State} (h : Inv s) (hs : s.commandStep = .next s1) : Inv (s.finishTick s1) := by
  have hcfg := commandStep_cfg hs
  have hq : SequencerInv (s.finishTick s1) := (h.sequencerInv.commandStep hs).finishTick s
  have hbl : 0 < s.cfg.pBlank := Nat.zero_lt_of_lt h.blRange
  have hgs : 0 < s.cfg.pGsclk := Nat.zero_lt_of_lt h.gsRange
  exact {
    valid := by rw [State.finishTick_cfg, hcfg]; exact h.valid
    bufWf := by rw [State.finishTick_buf]; exact commandStep_buf_wf hs h.bufWf
    bufInside := by
      rw [State.finishTick_buf, State.finishTick_cfg, hcfg]
      exact commandStep_buf_inRowSet hs h.valid h.bufInside
    blRange := by
      rw [State.finishTick_blPhase, State.finishTick_cfg, hcfg]
      split_ifs
      exacts [hbl, Nat.mod_lt _ hbl, hbl]
    gsRange := by
      rw [State.finishTick_gsPhase, State.finishTick_cfg, hcfg]
      split_ifs
      exacts [hgs, Nat.mod_lt _ hgs, hgs]
    stopped := fun hr => h.finishTick_stopped hs (by rwa [State.finishTick_run] at hr)
    nextRowRange := hq.nextRowRange
    rowaddrRange := hq.rowaddrRange
    byteRange := hq.byteRange
    atRest := hq.atRest
    clockLine := hq.clockLine
    dataLine := hq.dataLine
    rowOrder := hq.rowOrder }

/-- The state after reset (R32): everything at rest, whatever the buffer holds. -/
theorem powerUp_inv {c : Cfg} {b : Memory} (hv : c.Valid) (hw : b.wf) (hi : b.inRowSet c) :
    Inv (State.powerUp c b) := by
  obtain ⟨⟨hrows, -, hchips, -⟩, ⟨-, -, hbl⟩, -, -, hgs, -⟩ := id hv
  exact {
    valid := hv
    bufWf := hw
    bufInside := hi
    blRange := Nat.zero_lt_of_lt hbl
    gsRange := Nat.zero_lt_of_lt hgs
    stopped := fun _ => ⟨rfl, rfl, rfl, rfl⟩
    nextRowRange := hrows
    rowaddrRange := hrows
    byteRange := Nat.mul_pos (by decide) hchips
    atRest := fun _ => ⟨rfl, rfl, rfl, rfl⟩
    clockLine := nofun
    dataLine := nofun
    rowOrder := nofun }

/-- The invariant says nothing about the host's inputs or the count of ticks. -/
theorem Inv.withHost {s : State} (h : Inv s) (p : InPorts) (l : List InPorts) (n : Nat) :
    Inv { s with port := p, script := l, tick := n } :=
  ⟨h.valid, h.bufWf, h.bufInside, h.blRange, h.gsRange, h.stopped, h.nextRowRange, h.rowaddrRange, h.byteRange,
    h.atRest, h.clockLine, h.dataLine, h.rowOrder⟩

/-- A tick with `RST = 1` leads to the state after reset with the buffer as it was, but for the host's inputs and the
tick count. -/
theorem Inv.applyReset_advancePort {s : State} (h : Inv s) : Inv s.applyReset.advancePort :=
  (powerUp_inv h.valid h.bufWf h.bufInside).withHost _ _ _

/-- Settles O14: a completing tick is a reset, which leads to a state like the one after power-up, or a command step
followed by steps 4 to 6, which keep each clause. -/
theorem everyStepKeepsTheInvariant : Obligations.EveryStepKeepsTheInvariant := by
  intro s t h hstep
  obtain ⟨-, ⟨-, rfl⟩ | ⟨-, -, s1, hs, rfl⟩⟩ := clockTick_cases hstep
  · exact h.applyReset_advancePort
  · exact h.finishTick hs

/-- Settles O13: both are states after power-up, of configuration T with nothing listed and of any valid one. -/
theorem resetMeetsTheInvariant : Obligations.ResetMeetsTheInvariant :=
  ⟨powerUp_inv (by decide) ⟨List.Pairwise.nil, nofun⟩ nofun, fun _ _ hv hw hi => powerUp_inv hv hw hi⟩

end Sys2Proof.Machine
end

section
/-! PROOFS. The frame of every tick: what a completing tick never changes, and which commands change the buffer and the
read data. -/

namespace Sys2Proof.Machine

/-! ### Which commands change `buf`, `rvalid` and `rdata` -/

/-- The seven write commands alone change the buffer (R15, R72). -/
theorem exec_buf {i : Instr} {s t : State} (h : exec i s = .next t) :
    t.buf = s.buf ∨ (∃ r, i = .clearRow r) ∨ (∃ r c v, i = .set r c v) ∨ (∃ r v, i = .setRow r v) ∨
      (∃ v, i = .setAll v ∨ i = .initv v) ∨ i = .clearAll ∨ i = .init := by
  rcases exec_cases h with ⟨-, rfl⟩ | ⟨hi, -⟩ | ⟨r, hi, -, -⟩ | ⟨r, c, -, -, -, rfl⟩ | ⟨r, c, v, hi, -, -, -⟩ |
    ⟨r, v, hi, -, -⟩ | ⟨v, hi, -⟩ | ⟨-, rfl⟩ | ⟨-, rfl⟩ | ⟨-, rfl⟩ | ⟨-, rfl⟩
  · exact .inl rfl
  · exact .inr (.inr (.inr (.inr (.inr hi))))
  · exact .inr (.inl ⟨r, hi⟩)
  · exact .inl rfl
  · exact .inr (.inr (.inl ⟨r, c, v, hi⟩))
  · exact .inr (.inr (.inr (.inl ⟨r, v, hi⟩)))
  · exact .inr (.inr (.inr (.inr (.inl ⟨v, hi⟩))))
  · exact .inl rfl
  · exact .inl rfl
  · exact .inl rfl
  · exact .inl rfl

/-- `GET` answers the channel's value (R84). -/
theorem exec_get {r c : Nat} {s t : State} (h : exec (.get r c) s = .next t) :
    t.rvalid = true ∧ t.rdata = readChannel s.cfg s.buf r c := by
  simp only [exec, execGet] at h
  split at h
  · cases h
  · cases h; exact ⟨rfl, rfl⟩

/-- Every other command lets `rvalid` fall and leaves `rdata` alone (R26, R30 step 3). -/
theorem exec_not_get {i : Instr} {s t : State} (h : exec i s = .next t) (hi : ∀ r c, i ≠ .get r c) :
    t.rvalid = false ∧ t.rdata = s.rdata := by
  rcases exec_cases h with ⟨-, rfl⟩ | ⟨-, rfl⟩ | ⟨r, -, -, rfl⟩ | ⟨r, c, hget, -⟩ | ⟨r, c, v, -, -, -, rfl⟩ |
    ⟨r, v, -, -, rfl⟩ | ⟨v, -, rfl⟩ | ⟨-, rfl⟩ | ⟨-, rfl⟩ | ⟨-, rfl⟩ | ⟨-, rfl⟩
  case inr.inr.inr.inl => exact absurd hget (hi r c)
  all_goals exact ⟨rfl, rfl⟩

theorem commandStep_get {r c : Nat} {s s1 : State} (h : s.commandStep = .next s1) (ht : s.cmdTaken = true)
    (hc : s.command = .get r c) : s1.rvalid = true ∧ s1.rdata = readChannel s.cfg s.buf r c := by
  rw [commandStep_taken ht, hc] at h
  exact exec_get h

/-- A tick that takes no `GET`, or nothing at all, lets `rvalid` fall and keeps `rdata` (R26; log entry 8). -/
theorem commandStep_not_get {s s1 : State} (h : s.commandStep = .next s1)
    (hget : ¬ (s.cmdTaken = true ∧ ∃ r c, s.command = .get r c)) : s1.rvalid = false ∧ s1.rdata = s.rdata := by
  rcases commandStep_cases h with ⟨-, rfl⟩ | ⟨ht, he⟩
  · exact ⟨rfl, rfl⟩
  · exact exec_not_get he fun r c hc => hget ⟨ht, r, c, hc⟩

/-! ### The statements about every completing tick -/

/-- Settles O15: neither reset nor any of steps 3 to 6 touches the configuration, and the port moves on once. -/
theorem configurationNeverChanges : Obligations.ConfigurationNeverChanges := by
  intro s t hstep
  obtain ⟨-, ⟨-, rfl⟩ | ⟨-, -, s1, hs, rfl⟩⟩ := clockTick_cases hstep
  · exact ⟨rfl, rfl⟩
  · obtain ⟨hcfg, -, -, -, -, -, -, -, -, -, -, htick⟩ := commandStep_keeps hs
    exact ⟨by rw [State.finishTick_cfg, hcfg], by rw [State.finishTick_tick, htick]⟩

/-- Settles O16: reset and steps 4 to 6 leave the buffer alone, and step 3 changes it only by a taken write command,
which the sequencer at rest lets in. -/
theorem onlyBufferCommandsChangeTheBuffer : Obligations.OnlyBufferCommandsChangeTheBuffer := by
  intro s t hstep
  obtain ⟨-, ⟨-, rfl⟩ | ⟨hr, -, s1, hs, rfl⟩⟩ := clockTick_cases hstep
  · exact .inl rfl
  · rw [State.finishTick_buf]
    rcases commandStep_cases hs with ⟨-, rfl⟩ | ⟨ht, he⟩
    · exact .inl rfl
    · obtain ⟨-, hidle, hacc⟩ := s.cmdTaken_iff.mp ht
      exact (exec_buf he).imp id fun hi => ⟨ht, hr, hidle, hacc, hi⟩

/-- Settles O34: steps 4 to 6 keep what step 3 leaves in `rvalid` and `rdata`, and that depends on whether a `GET` was
taken. -/
theorem readDataFollowsTheAcceptedGet : Obligations.ReadDataFollowsTheAcceptedGet := by
  intro s t hstep
  obtain ⟨-, ⟨hr, rfl⟩ | ⟨hr, -, s1, hs, rfl⟩⟩ := clockTick_cases hstep
  · exact ⟨fun _ => ⟨rfl, rfl⟩, fun hn => by cases hr.symm.trans hn⟩
  · refine ⟨fun hn => (by cases hr.symm.trans hn), fun _ => ?_⟩
    rw [State.finishTick_rvalid, State.finishTick_rdata]
    by_cases hget : s.cmdTaken = true ∧ ∃ r c, s.command = .get r c
    · have hvalid : s1.rvalid = true := by
        obtain ⟨ht, r, c, hc⟩ := hget
        exact (commandStep_get hs ht hc).1
      exact ⟨iff_of_true hvalid hget, fun r c ht hc => (commandStep_get hs ht hc).2,
        fun hn => by cases hvalid.symm.trans hn⟩
    · obtain ⟨hvalid, hdata⟩ := commandStep_not_get hs hget
      exact ⟨iff_of_false (by simp [hvalid]) hget, fun r c ht hc => absurd ⟨ht, r, c, hc⟩ hget, fun _ => hdata⟩

/-- Settles O6: with a valid configuration, no reset and no fault condition a tick is its command step and then steps 4
to 6, and the command step is `exec` or lets `rvalid` fall. -/
theorem stepRunsTheDecodedCommand : Obligations.StepRunsTheDecodedCommand := by
  intro s hv hr hf
  refine ⟨fun ht => ?_, fun ht => clockTick_next hv hr hf (commandStep_idle ht)⟩
  have hs : s.commandStep = exec (decodeWord s.port.cmd) s := commandStep_taken ht
  cases he : exec (decodeWord s.port.cmd) s with
  | next s1 => exact clockTick_next hv hr hf (hs.trans he)
  | fault f => exact clockTick_of_commandFault hv hr hf (hs.trans he)
  | refused r => exact absurd he (exec_not_refused _ _ _)

/-! ### The ports after reset -/

/-- After reset every output line is 0 but `BLANK`, which is asserted at phase 0, and `CMD_READY` (R32, R181). -/
theorem powerUp_outPorts {c : Cfg} (hv : c.Valid) (b : Memory) : (State.powerUp c b).outPorts =
    { cmdReady := true, rvalid := false, rdata := 0#12, sin := false, sclk := false, rowaddr := 0, blank := true,
      xlat := false, gsclk := false } := by
  obtain ⟨-, ⟨-, hduty, -⟩, ⟨hlatch, -⟩, -, hgs, -⟩ := hv
  have hblank : (State.powerUp c b).blank = true := decide_eq_true (Nat.zero_lt_of_lt hduty)
  have hxlat : (State.powerUp c b).xlat = false := by
    simp [State.xlat, State.powerUp, Nat.one_le_iff_ne_zero.mp hlatch]
  have hgsclk : (State.powerUp c b).gsclk = false := by
    have hhalf : ¬ (c.pGsclk + 1) / 2 ≤ 0 := by omega
    exact decide_eq_false hhalf
  rw [State.outPorts, hblank, hxlat, hgsclk]
  rfl

/-- Settles O10: a tick with `RST = 1` is reset before any fault condition is looked at, and the ports do not show the
fields in which the next state differs from the one after power-up. -/
theorem resetTickGivesTheResetState : Obligations.ResetTickGivesTheResetState := fun s hv hr =>
  ⟨s.applyReset.advancePort, clockTick_reset hv hr, rfl, rfl, rfl, rfl, rfl, rfl, rfl, rfl, rfl, rfl, rfl, rfl, rfl, rfl,
    rfl, rfl, rfl, powerUp_outPorts hv s.buf⟩

end Sys2Proof.Machine
end

section
/-! PROOFS. What the buffer holds never steers the machine: two states that differ at most in what no rule decides by
(the buffer, the data line, the read data) are led by every operation of a tick to two such states. -/

namespace Sys2Proof.Machine

/-- The two states agree in everything a rule of the machine decides by: all but the buffer, the data line and the read
data. -/
def SameControl (s s' : State) : Prop := ∃ m b d, s' = { s with buf := m, sin := b, rdata := d }

/-- Two outcomes of the same kind: next states that agree but for contents, the same fault, the same refusal. -/
inductive Alike : Host.Outcome State Fault Refusal → Host.Outcome State Fault Refusal → Prop where
  | next {t t' : State} (h : SameControl t t') : Alike (.next t) (.next t')
  | fault (f : Fault) : Alike (.fault f) (.fault f)
  | refused (r : Refusal) : Alike (.refused r) (.refused r)

namespace Alike

variable {o o' : Host.Outcome State Fault Refusal}

theorem eq_next {t : State} (h : Alike o o') (ho : o = .next t) : ∃ t', o' = .next t' ∧ SameControl t t' := by
  subst ho; cases h with
  | next hc => exact ⟨_, rfl, hc⟩

theorem eq_fault {f : Fault} (h : Alike o o') (ho : o = .fault f) : o' = .fault f := by subst ho; cases h; rfl

theorem eq_refused {r : Refusal} (h : Alike o o') (ho : o = .refused r) : o' = .refused r := by subst ho; cases h; rfl

end Alike

/-! ### Steps 4 to 6 -/

namespace SameControl

variable {s s' : State}

theorem seqState_eq (h : SameControl s s') : s'.seqState = s.seqState := by obtain ⟨m, b, d, rfl⟩ := h; rfl

theorem sub_eq (h : SameControl s s') : s'.sub = s.sub := by obtain ⟨m, b, d, rfl⟩ := h; rfl

theorem atLastBit_eq (h : SameControl s s') : s'.atLastBit = s.atLastBit := by obtain ⟨m, b, d, rfl⟩ := h; rfl

theorem bookEvent (h : SameControl s s') (req acc stop : Bool) :
    SameControl (s.bookEvent req acc stop) (s'.bookEvent req acc stop) := by
  obtain ⟨m, b, d, rfl⟩ := h
  exact ⟨m, b, d, rfl⟩

theorem nextBit (h : SameControl s s') : SameControl s.nextBit s'.nextBit := by
  obtain ⟨m, b, d, rfl⟩ := h
  by_cases hbit : 0 < s.bitIdx.val
  · rw [State.nextBit, State.nextBit, if_pos hbit, if_pos (by exact hbit)]
    exact ⟨m, _, d, rfl⟩
  · rw [State.nextBit, State.nextBit, if_neg hbit, if_neg (by exact hbit)]
    exact ⟨m, _, d, rfl⟩

theorem withinCell (h : SameControl s s') (clk : Bool) (third : SubTick) :
    SameControl { s with sclk := clk, sub := third } { s' with sclk := clk, sub := third } := by
  obtain ⟨m, b, d, rfl⟩ := h
  exact ⟨m, b, d, rfl⟩

theorem takeEvent (h : SameControl s s') : SameControl s.takeEvent s'.takeEvent := by
  obtain ⟨m, b, d, rfl⟩ := h
  exact ⟨m, _, d, rfl⟩

theorem endShift (h : SameControl s s') : SameControl s.endShift s'.endShift := by
  obtain ⟨m, b, d, rfl⟩ := h
  exact ⟨m, b, d, rfl⟩

/-- Which third of which bit comes next depends on the position alone (R137 to R139). -/
theorem shiftTick (h : SameControl s s') : SameControl s.shiftTick s'.shiftTick := by
  have hsub' := h.sub_eq
  have hl' := h.atLastBit_eq
  cases hsub : s.sub with
  | setUp => rw [State.shiftTick_setUp hsub, State.shiftTick_setUp (hsub'.trans hsub)]; exact h.withinCell _ _
  | high => rw [State.shiftTick_high hsub, State.shiftTick_high (hsub'.trans hsub)]; exact h.withinCell _ _
  | low =>
    cases hl : s.atLastBit with
    | true =>
      rw [State.shiftTick_low_last hsub hl, State.shiftTick_low_last (hsub'.trans hsub) (hl'.trans hl)]
      exact h.endShift
    | false =>
      rw [State.shiftTick_low_next hsub hl, State.shiftTick_low_next (hsub'.trans hsub) (hl'.trans hl)]
      exact h.nextBit

theorem sequence (h : SameControl s s') (acc : Bool) : SameControl (s.sequence acc) (s'.sequence acc) := by
  cases acc with
  | true => exact h.takeEvent
  | false =>
    have hseq := h.seqState_eq
    cases hb : s.seqState with
    | busy => rw [State.sequence_busy hb, State.sequence_busy (hseq.trans hb)]; exact h.shiftTick
    | idle => rw [State.sequence_idle hb, State.sequence_idle (hseq.trans hb)]; exact h

theorem advanceCounters (h : SameControl s s') (run stop : Bool) :
    SameControl (s.advanceCounters run stop) (s'.advanceCounters run stop) := by
  obtain ⟨m, b, d, rfl⟩ := h
  cases run <;> cases stop <;> exact ⟨m, b, d, rfl⟩

theorem advancePort (h : SameControl s s') : SameControl s.advancePort s'.advancePort := by
  obtain ⟨m, b, d, rfl⟩ := h
  exact ⟨m, b, d, rfl⟩

/-- The signals of the start of the tick (R31) do not read the buffer. -/
theorem finishTick {s1 s1' : State} (h : SameControl s1 s1') (s : State) (m : Memory) :
    SameControl (s.finishTick s1) (({ s with buf := m } : State).finishTick s1') :=
  (((h.bookEvent _ _ _).sequence _).advanceCounters _ _).advancePort

end SameControl

/-! ### Step 3 -/

/-- A command behind a range check: the check reads no contents (R80). -/
theorem Alike.ofCheck {t t' : State} (f? : Option Fault) (h : SameControl t t') :
    Alike (match f? with | some f => .fault f | none => .next t)
      (match f? with | some f => .fault f | none => .next t') := by
  cases f? with
  | some f => exact .fault f
  | none => exact .next h

/-- Whether a command completes, faults or is refused does not depend on what the buffer holds (R54, R161, R162). -/
theorem exec_alike (i : Instr) (s : State) (m : Memory) : Alike (exec i s) (exec i { s with buf := m }) := by
  cases i with
  | clearRow r => exact .ofCheck (s.rangeFault r none) ⟨_, s.sin, s.rdata, rfl⟩
  | get r c => exact .ofCheck (s.rangeFault r (some c)) ⟨m, s.sin, _, rfl⟩
  | set r c v => exact .ofCheck (s.rangeFault r (some c)) ⟨_, s.sin, s.rdata, rfl⟩
  | setRow r v => exact .ofCheck (s.rangeFault r none) ⟨_, s.sin, s.rdata, rfl⟩
  | nop => exact .next ⟨m, s.sin, s.rdata, rfl⟩
  | clearAll => exact .next ⟨_, s.sin, s.rdata, rfl⟩
  | setAll v => exact .next ⟨_, s.sin, s.rdata, rfl⟩
  | init => exact .next ⟨_, s.sin, s.rdata, rfl⟩
  | initv v => exact .next ⟨_, s.sin, s.rdata, rfl⟩
  | start => exact .next ⟨m, s.sin, s.rdata, rfl⟩
  | stop => exact .next ⟨m, s.sin, s.rdata, rfl⟩
  | evtOff => exact .next ⟨m, s.sin, s.rdata, rfl⟩
  | evtOn => exact .next ⟨m, s.sin, s.rdata, rfl⟩
  | reservedD => exact .fault _
  | reservedE => exact .fault _
  | reservedF => exact .fault _

theorem commandStep_alike (s : State) (m : Memory) : Alike s.commandStep ({ s with buf := m } : State).commandStep := by
  cases ht : s.cmdTaken with
  | true => rw [commandStep_taken ht, commandStep_taken (by exact ht)]; exact exec_alike _ _ _
  | false => rw [commandStep_idle ht, commandStep_idle (by exact ht)]; exact .next ⟨m, s.sin, s.rdata, rfl⟩

/-! ### The tick -/

/-- A tick goes the same way whatever the buffer holds: validity, reset, the fault conditions and the command step are
each alike, and steps 4 to 6 keep the next states so. -/
theorem clockTick_alike (s : State) (m : Memory) : Alike (clockTick s) (clockTick { s with buf := m }) := by
  by_cases hv : s.cfg.Valid
  case neg => rw [clockTick_of_not_valid hv, clockTick_of_not_valid (by exact hv)]; exact .refused _
  cases hr : s.port.rst with
  | true => rw [clockTick_reset hv hr, clockTick_reset (by exact hv) (by exact hr)]; exact .next ⟨m, false, 0#12, rfl⟩
  | false =>
    cases hf : s.timingFault with
    | some k =>
      rw [clockTick_of_timingFault hv hr hf, clockTick_of_timingFault (by exact hv) (by exact hr) (by exact hf)]
      exact .fault _
    | none =>
      have hstep := commandStep_alike s m
      generalize ho : s.commandStep = o, ho' : ({ s with buf := m } : State).commandStep = o' at hstep
      cases hstep with
      | next h =>
        rw [clockTick_next hv hr hf ho, clockTick_next (by exact hv) (by exact hr) (by exact hf) ho']
        exact .next (h.finishTick s m)
      | fault f =>
        rw [clockTick_of_commandFault hv hr hf ho,
          clockTick_of_commandFault (by exact hv) (by exact hr) (by exact hf) ho']
        exact .fault f
      | refused r => exact absurd ho (commandStep_not_refused s r)

/-- Settles O17: a tick goes the same way with any other contents; the converse directions put the first contents
back. -/
theorem bufferContentsNeverSteerTheMachine : Obligations.BufferContentsNeverSteerTheMachine := by
  intro s m
  have there := clockTick_alike s m
  have back := clockTick_alike { s with buf := m } s.buf
  refine ⟨fun t h => ?_, fun f => ⟨there.eq_fault, back.eq_fault⟩, fun r => ⟨there.eq_refused, back.eq_refused⟩⟩
  obtain ⟨t', ht', m', b, d, rfl⟩ := there.eq_next h
  exact ⟨m', b, d, ht'⟩

end Sys2Proof.Machine
end

section
/-! PROOFS. Where a channel lies in its row (R42, R44, R90), and the row read as pairs of channels and as one bit string
of 12-bit values (R43). -/

namespace Sys2Proof.Machine

/-! ### Indexes and byte positions -/

/-- Index and channel count the same channels from opposite ends (R42). -/
theorem chanIdx_add {c : Cfg} {ch : Nat} (h : ch < c.nCh) : chanIdx c ch + ch + 1 = c.nCh := by
  unfold chanIdx
  omega

theorem chanIdx_reversed {c : Cfg} {idx : Nat} (h : idx < c.nCh) : chanIdx c (c.nCh - 1 - idx) = idx := by
  have hadd := chanIdx_add (c := c) (ch := c.nCh - 1 - idx) (by omega)
  omega

theorem nCh_le {c : Cfg} (hv : c.Valid) : c.nCh ≤ 256 := by
  obtain ⟨⟨-, -, -, hchips⟩, -⟩ := hv
  unfold Cfg.nCh
  omega

theorem bytePos_zero {c : Cfg} (hv : c.Valid) : bytePos c 0 = c.rowBytes - 2 := by
  obtain ⟨⟨-, -, hchips, -⟩, -⟩ := hv
  unfold bytePos chanIdx Cfg.nCh Cfg.rowBytes
  omega

/-- Settles O31: `bytePos_lt` is the first bound, and the index is below `N_CH`, which is at most 256. -/
theorem channelBytesLieInsideTheRow : Obligations.ChannelBytesLieInsideTheRow := by
  intro c ch hv hch
  have hpos := bytePos_lt hch
  have hadd := chanIdx_add hch
  have hn := nCh_le hv
  exact ⟨by omega, bytePos_zero hv, hadd, by omega⟩

/-! ### The value of a channel inside its window -/

theorem readChannel_of_chanIdx_even {c : Cfg} {ch k : Nat} (m : Memory) (r : Nat) (h : chanIdx c ch = 2 * k) :
    readChannel c m r ch = windowValue false (memRead2 m r (3 * k)) := by
  have hmid : midByte c ch = false := decide_eq_false (by omega)
  have hpos : bytePos c ch = 3 * k := by unfold bytePos; omega
  rw [readChannel, hmid, hpos]

theorem readChannel_of_chanIdx_odd {c : Cfg} {ch k : Nat} (m : Memory) (r : Nat) (h : chanIdx c ch = 2 * k + 1) :
    readChannel c m r ch = windowValue true (memRead2 m r (3 * k + 1)) := by
  have hmid : midByte c ch = true := decide_eq_true (by omega)
  have hpos : bytePos c ch = 3 * k + 1 := by unfold bytePos; omega
  rw [readChannel, hmid, hpos]

theorem getLsbD_windowValue (mid : Bool) (w : BitVec 16) {j : Nat} (h : j < 12) :
    (windowValue mid w).getLsbD j = w.getLsbD (if mid then j else 4 + j) := by
  cases mid <;> simp [windowValue, h]

theorem getLsbD_memRead2 (m : Memory) (r i j : Nat) :
    (memRead2 m r i).getLsbD j = if j < 8 then memBit m r (i + 1) j else memBit m r i (j - 8) :=
  getLsbD_append_8_8 _ _ _

/-! ### Pairs of channels -/

/-- Three bytes hold exactly two values, the first byte-aligned and the second beginning mid-byte (R43, R46). -/
theorem bytes_of_windowValues (x y z : Byte) {a b : Gray} (ha : a = windowValue false (x ++ y))
    (hb : b = windowValue true (y ++ z)) :
    x = a.extractLsb' 4 8 ∧ y = a.extractLsb' 0 4 ++ b.extractLsb' 8 4 ∧ z = b.extractLsb' 0 8 := by
  subst ha hb
  refine ⟨?_, ?_, ?_⟩ <;> apply BitVec.eq_of_getLsbD_eq <;> intro i hi
  · rw [BitVec.getLsbD_extractLsb', getLsbD_windowValue _ _ (by omega), getLsbD_append_8_8]
    simp [hi, show ¬ 4 + (4 + i) < 8 by omega, show 4 + (4 + i) - 8 = i by omega]
  · rw [BitVec.getLsbD_append]
    split
    · next hlow =>
      rw [BitVec.getLsbD_extractLsb', getLsbD_windowValue _ _ (by omega), getLsbD_append_8_8]
      simp [hlow]
    · next hhigh =>
      rw [BitVec.getLsbD_extractLsb', getLsbD_windowValue _ _ (by omega), getLsbD_append_8_8]
      simp [show 4 + (i - 4) = i by omega, show i - 4 < 4 by omega, hi]
  · rw [BitVec.getLsbD_extractLsb', getLsbD_windowValue _ _ (by omega), getLsbD_append_8_8]
    simp [hi]

/-! ### The bit string -/

theorem rowBit_byte (m : Memory) (r i : Nat) {n : Nat} (h : n < 8) : rowBit m r (8 * i + n) = memBit m r i (7 - n) := by
  rw [rowBit, show (8 * i + n) / 8 = i by omega, show (8 * i + n) % 8 = n by omega]

/-- A two-byte window is sixteen bits of the row's bit string, most significant first (R43, R45). -/
theorem rowBit_window (m : Memory) (r i : Nat) {n : Nat} (h : n < 16) :
    rowBit m r (8 * i + n) = (memRead2 m r i).getLsbD (15 - n) := by
  rw [getLsbD_memRead2]
  split
  · next hlow =>
    rw [show 8 * i + n = 8 * (i + 1) + (n - 8) by omega, rowBit_byte m r (i + 1) (by omega),
      show 7 - (n - 8) = 15 - n by omega]
  · rw [rowBit_byte m r i (by omega), show 15 - n - 8 = 7 - n by omega]

/-- The value with index `idx` is the twelve bits of the row's bit string from `12 * idx` on, bit 11 first (R43). -/
theorem rowBit_chanIdx (c : Cfg) (m : Memory) (r ch : Nat) {j : Nat} (h : j < 12) :
    rowBit m r (12 * chanIdx c ch + j) = (readChannel c m r ch).getLsbD (11 - j) := by
  obtain ⟨k, hk | hk⟩ := (chanIdx c ch).even_or_odd'
  · rw [readChannel_of_chanIdx_even m r hk, getLsbD_windowValue _ _ (by omega), hk,
      show 12 * (2 * k) + j = 8 * (3 * k) + j by omega, rowBit_window m r _ (by omega)]
    congr 1
    simp only [Bool.false_eq_true, if_false]
    omega
  · rw [readChannel_of_chanIdx_odd m r hk, getLsbD_windowValue _ _ (by omega), hk,
      show 12 * (2 * k + 1) + j = 8 * (3 * k + 1) + (j + 4) by omega, rowBit_window m r _ (by omega)]
    congr 1
    simp only [if_true]
    omega

/-- Settles O30: the two channels of a pair have the indexes `2k` and `2k + 1`, whose windows are its three bytes; and
each index is the place of its value in the bit string. -/
theorem rowIsABitStringOfChannels : Obligations.RowIsABitStringOfChannels := by
  intro c m r _
  refine ⟨fun k hk a b ha hb => ?_, fun idx hidx j hj => ?_⟩
  · have heven : chanIdx c (c.nCh - 1 - 2 * k) = 2 * k := chanIdx_reversed (by omega)
    have hodd : chanIdx c (c.nCh - 2 - 2 * k) = 2 * k + 1 := by
      rw [show c.nCh - 2 - 2 * k = c.nCh - 1 - (2 * k + 1) by omega]
      exact chanIdx_reversed (by omega)
    rw [readChannel_of_chanIdx_even m r heven] at ha
    rw [readChannel_of_chanIdx_odd m r hodd] at hb
    exact bytes_of_windowValues _ _ _ ha hb
  · rw [← rowBit_chanIdx c m r _ hj, chanIdx_reversed hidx]

end Sys2Proof.Machine
end

section
/-! PROOFS. A command executed again at once: the buffer operations find the bytes they would store already there
(R48), and the other commands set fields to constants. -/

namespace Sys2Proof.Machine

/-! ### Storing what is already there -/

/-- In canonical form a byte stored over an equal one changes nothing. -/
theorem write_of_read_eq {m : Memory} (hm : m.wf) {a : Nat} {v : Byte} (h : m.read a = v) : m.write a v = m := by
  refine eq_of_read_eq (write_wf hm a v) hm fun x => ?_
  rw [read_write hm]
  split
  · next hx => rw [hx, h]
  · rfl

theorem memWrite2_of_read_eq {m : Memory} (hm : m.wf) {r i : Nat} {w : BitVec 16} (h : memRead2 m r i = w) :
    memWrite2 m r i w = m := by
  have hhigh : memRead1 m r i = w.extractLsb' 8 8 := by
    rw [← h, memRead2, BitVec.extractLsb'_append_eq_left]
  have hlow : memRead1 m r (i + 1) = w.extractLsb' 0 8 := by
    rw [← h, memRead2, BitVec.extractLsb'_append_eq_right]
  unfold memWrite2 memWrite1
  rw [write_of_read_eq hm hhigh, write_of_read_eq hm hlow]

theorem fillRow_of_read_eq {m : Memory} (hm : m.wf) {r : Nat} {f : Nat → Byte} {n : Nat}
    (h : ∀ i < n, memRead1 m r i = f i) : fillRow m r f n = m := by
  induction n with
  | zero => rfl
  | succ n ih =>
    rw [fillRow, ih fun i hi => h i (Nat.lt_succ_of_lt hi)]
    exact write_of_read_eq hm (h n n.lt_succ_self)

theorem fillRows_of_read_eq {m : Memory} (hm : m.wf) {f : Nat → Byte} {n k : Nat}
    (h : ∀ r < k, ∀ i < n, memRead1 m r i = f i) : fillRows m f n k = m := by
  induction k with
  | zero => rfl
  | succ k ih =>
    rw [fillRows, ih fun r hr => h r (Nat.lt_succ_of_lt hr)]
    exact fillRow_of_read_eq hm (h k k.lt_succ_self)

theorem fillRow_fillRow {m : Memory} (hm : m.wf) (r : Nat) (f : Nat → Byte) {n : Nat} (hn : n ≤ rowStride) :
    fillRow (fillRow m r f n) r f n = fillRow m r f n :=
  fillRow_of_read_eq (fillRow_wf hm r f n) fun i hi => by
    rw [memRead1_fillRow hm f hn (Nat.lt_of_lt_of_le hi hn), if_pos ⟨rfl, hi⟩]

theorem fillRows_fillRows {m : Memory} (hm : m.wf) (f : Nat → Byte) {n : Nat} (k : Nat) (hn : n ≤ rowStride) :
    fillRows (fillRows m f n k) f n k = fillRows m f n k :=
  fillRows_of_read_eq (fillRows_wf hm f n k) fun r hr i hi => by
    rw [memRead1_fillRows hm f hn (Nat.lt_of_lt_of_le hi hn), if_pos ⟨hr, hi⟩]

/-! ### A channel -/

theorem windowInsert_windowValue (mid : Bool) (w : BitVec 16) : windowInsert mid w (windowValue mid w) = w := by
  cases mid with
  | false => exact BitVec.extractLsb'_append_extractLsb' (w := 12) (len := 4)
  | true => exact BitVec.extractLsb'_append_extractLsb' (w := 4) (len := 12)

theorem writeChannel_of_read_eq {c : Cfg} {m : Memory} (hm : m.wf) {r ch : Nat} {v : Gray}
    (h : readChannel c m r ch = v) : writeChannel c m r ch v = m := by
  subst h
  exact memWrite2_of_read_eq hm (windowInsert_windowValue _ _).symm

theorem memRead2_memWrite2 {m : Memory} (hm : m.wf) (r : Nat) {i : Nat} (hi : i + 1 < rowStride) (w : BitVec 16) :
    memRead2 (memWrite2 m r i w) r i = w := by
  rw [memRead2, memRead1_memWrite2 hm hi (by omega), memRead1_memWrite2 hm hi hi]
  simpa using BitVec.extractLsb'_append_extractLsb' (w := 8) (len := 8)

theorem readChannel_writeChannel {c : Cfg} {m : Memory} (hv : c.Valid) (hm : m.wf) (r : Nat) {ch : Nat}
    (hch : ch < c.nCh) (v : Gray) : readChannel c (writeChannel c m r ch v) r ch = v := by
  have hpos := Nat.lt_trans (bytePos_lt hch) (rowBytes_le_stride hv)
  rw [readChannel, writeChannel, memRead2_memWrite2 hm r hpos, windowValue_windowInsert]

theorem writeChannel_writeChannel {c : Cfg} {m : Memory} (hv : c.Valid) (hm : m.wf) (r : Nat) {ch : Nat}
    (hch : ch < c.nCh) (v : Gray) :
    writeChannel c (writeChannel c m r ch v) r ch v = writeChannel c m r ch v :=
  writeChannel_of_read_eq (writeChannel_wf hm c r ch v) (readChannel_writeChannel hv hm r hch v)

/-! ### The commands behind a range check, run forwards -/

theorem exec_clearRow_next {s : State} {r : Nat} (hr : r < s.cfg.rowCount) :
    exec (.clearRow r) s = .next { s.dropRvalid with buf := zeroRow s.cfg s.buf r } := by
  rw [exec, execClearRow, rangeFault_none hr]

theorem exec_get_next {s : State} {r c : Nat} (hr : r < s.cfg.rowCount) (hc : c < s.cfg.nCh) :
    exec (.get r c) s = .next { s with rdata := readChannel s.cfg s.buf r c, rvalid := true } := by
  rw [exec, execGet, rangeFault_some hr hc]

theorem exec_set_next {s : State} {r c : Nat} {v : Gray} (hr : r < s.cfg.rowCount) (hc : c < s.cfg.nCh) :
    exec (.set r c v) s = .next { s.dropRvalid with buf := writeChannel s.cfg s.buf r c v } := by
  rw [exec, execSet, rangeFault_some hr hc]

theorem exec_setRow_next {s : State} {r : Nat} {v : Gray} (hr : r < s.cfg.rowCount) :
    exec (.setRow r v) s = .next { s.dropRvalid with buf := patternRow s.cfg s.buf r v } := by
  rw [exec, execSetRow, rangeFault_none hr]

/-! ### The statement -/

/-- A store done again to the state it left: the outcome depends on what the second store leaves in the buffer. -/
theorem next_of_buf_eq (s : State) {m m' : Memory} (h : m' = m) :
    (.next { s.dropRvalid with buf := m' } : Host.Outcome State Fault Refusal) =
      .next { s.dropRvalid with buf := m } := by
  rw [h]

/-- Settles O29: done again, a store finds its bytes in place, `GET` reads the same buffer, and the other commands set
constants. -/
theorem everyCommandIsIdempotent : Obligations.EveryCommandIsIdempotent := by
  intro i s t hv hm h
  have hrow : s.cfg.rowBytes ≤ rowStride := (rowBytes_le_stride hv).le
  rcases exec_cases h with ⟨rfl, rfl⟩ | ⟨rfl | rfl, rfl⟩ | ⟨r, rfl, hr, rfl⟩ | ⟨r, c, rfl, hr, hc, rfl⟩ |
    ⟨r, c, v, rfl, hr, hc, rfl⟩ | ⟨r, v, rfl, hr, rfl⟩ | ⟨v, rfl | rfl, rfl⟩ | ⟨rfl, rfl⟩ | ⟨rfl, rfl⟩ | ⟨rfl, rfl⟩ |
    ⟨rfl, rfl⟩
  · rfl
  · exact next_of_buf_eq s (fillRows_fillRows hm _ _ hrow)
  · exact next_of_buf_eq s (fillRows_fillRows hm _ _ hrow)
  · exact .trans (exec_clearRow_next hr) (next_of_buf_eq s (fillRow_fillRow hm r _ hrow))
  · exact exec_get_next hr hc
  · exact .trans (exec_set_next hr hc) (next_of_buf_eq s (writeChannel_writeChannel hv hm r hc v))
  · exact .trans (exec_setRow_next hr) (next_of_buf_eq s (fillRow_fillRow hm r _ hrow))
  · exact next_of_buf_eq s (fillRows_fillRows hm _ _ hrow)
  · exact next_of_buf_eq s (fillRows_fillRows hm _ _ hrow)
  · rfl
  · rfl
  · rfl
  · rfl

end Sys2Proof.Machine
end

section
/-! PROOFS. What turns `evt_en` on and off, and why a shift needs it on (R19, R52, R131, R132). -/

namespace Sys2Proof.Machine

/-- After a command events are on if it is `EVT_ON`, or if they were and it is not `EVT_OFF` (R131, R132). -/
theorem exec_evtEn {i : Instr} {s t : State} (h : exec i s = .next t) :
    t.evtEn = true ↔ i = .evtOn ∨ (s.evtEn = true ∧ i ≠ .evtOff) := by
  rcases exec_cases h with ⟨rfl, rfl⟩ | ⟨rfl | rfl, rfl⟩ | ⟨r, rfl, -, rfl⟩ | ⟨r, c, rfl, -, -, rfl⟩ |
    ⟨r, c, v, rfl, -, -, rfl⟩ | ⟨r, v, rfl, -, rfl⟩ | ⟨v, rfl | rfl, rfl⟩ | ⟨rfl, rfl⟩ | ⟨rfl, rfl⟩ | ⟨rfl, rfl⟩ |
    ⟨rfl, rfl⟩ <;>
    simp

/-- Step 3 as a whole: a tick that takes no command leaves `evt_en` alone. -/
theorem commandStep_evtEn {s s1 : State} (h : s.commandStep = .next s1) :
    s1.evtEn = true ↔ (s.cmdTaken = true ∧ s.command = .evtOn) ∨
      (s.evtEn = true ∧ ¬ (s.cmdTaken = true ∧ s.command = .evtOff)) := by
  rcases commandStep_cases h with ⟨ht, rfl⟩ | ⟨ht, he⟩
  · simp [ht]
  · simp [ht, exec_evtEn he]

theorem State.not_accept_of_evtEn {s : State} (h : s.evtEn = false) : s.accept = false := by
  simp [State.accept, h]

/-- Without an accepted event the sequencer stays at rest (R142). -/
theorem finishTick_idle {s s1 : State} (hs : s.commandStep = .next s1) (ha : s.accept = false)
    (hi : s.seqState = .idle) : (s.finishTick s1).seqState = .idle := by
  have hi1 : s1.seqState = .idle := (commandStep_seqState hs).trans hi
  rw [State.finishTick_seqState, ha, State.sequence_idle hi1, hi1]

/-- Settles O49: with events off none is accepted, so a sequencer at rest stays so; and steps 4 to 6 keep the `evt_en`
that step 3 left. -/
theorem noShiftStartsWhileEventsAreOff : Obligations.NoShiftStartsWhileEventsAreOff := by
  intro s t hstep hr
  obtain ⟨-, ⟨hr', -⟩ | ⟨-, -, s1, hs, rfl⟩⟩ := clockTick_cases hstep
  · cases hr.symm.trans hr'
  · have hevt := commandStep_evtEn hs
    rw [State.finishTick_evtEn]
    refine ⟨fun hoff => ⟨fun hbusy => ?_, by simpa [hoff] using hevt⟩, fun hon => ?_⟩
    · cases hi : s.seqState with
      | busy => rfl
      | idle => cases (finishTick_idle hs (State.not_accept_of_evtEn hoff) hi).symm.trans hbusy
    · rw [← Bool.not_eq_true, hevt]
      refine ⟨fun hne => by_contra fun hoff => hne (.inr ⟨hon, hoff⟩), ?_⟩
      rintro ⟨ht, hc⟩
      simp [ht, hc]

end Sys2Proof.Machine
end

section
/-! PROOFS. Decoding and encoding (R60 to R67): a word is format C of its own four fields, a mask keeps or clears each
field by itself, and `OP` alone says which command a word is. -/

namespace Sys2Proof

/-! ### The fields of a word -/

theorem rowField_lt (w : Word) : rowField w < 256 := (w.extractLsb' 20 8).isLt

theorem channelField_lt (w : Word) : channelField w < 256 := (w.extractLsb' 12 8).isLt

/-- Format C covers the whole word (R61). -/
theorem formatC_fields (w : Word) : formatC (opField w) (rowField w) (channelField w) (valueField w) = w := by
  have hw := w.isLt
  apply BitVec.eq_of_toNat_eq
  simp only [formatC_toNat, opField, rowField, channelField, valueField, BitVec.extractLsb'_toNat,
    Nat.shiftRight_eq_div_pow]
  omega

/-! ### Masks -/

theorem formatC_and (op op' : BitVec 4) (r r' c c' : Nat) (v v' : Gray) :
    formatC op r c v &&& formatC op' r' c' v' = formatC (op &&& op') (r &&& r') (c &&& c') (v &&& v') := by
  simp only [formatC, BitVec.ofNat_and, ← BitVec.and_append]

/-- A mask of whole fields keeps `OP` and masks each operand by itself. -/
theorem and_fieldMask (w : Word) (r c : Nat) (v : Gray) :
    w &&& formatC 0xF#4 r c v = formatC (opField w) (rowField w &&& r) (channelField w &&& c) (valueField w &&& v) := by
  have hop : opField w &&& 0xF#4 = opField w := BitVec.and_allOnes
  rw [← hop, ← formatC_and, formatC_fields]

@[simp] theorem rowField_and_255 (w : Word) : rowField w &&& 255 = rowField w := by
  rw [Nat.and_two_pow_sub_one_eq_mod _ 8]; exact Nat.mod_eq_of_lt (rowField_lt w)

@[simp] theorem channelField_and_255 (w : Word) : channelField w &&& 255 = channelField w := by
  rw [Nat.and_two_pow_sub_one_eq_mod _ 8]; exact Nat.mod_eq_of_lt (channelField_lt w)

@[simp] theorem valueField_and_ones (w : Word) : valueField w &&& 0xFFF#12 = valueField w := BitVec.and_allOnes

/-! The masks of R62's column "operands used". -/

theorem and_opMask (w : Word) : w &&& 0xF0000000#32 = formatC (opField w) 0 0 0#12 :=
  (and_fieldMask w 0 0 0#12).trans (by simp)

theorem and_opRowMask (w : Word) : w &&& 0xFFF00000#32 = formatC (opField w) (rowField w) 0 0#12 :=
  (and_fieldMask w 255 0 0#12).trans (by simp)

theorem and_opRowChannelMask (w : Word) :
    w &&& 0xFFFFF000#32 = formatC (opField w) (rowField w) (channelField w) 0#12 :=
  (and_fieldMask w 255 255 0#12).trans (by simp)

theorem and_opRowValueMask (w : Word) : w &&& 0xFFF00FFF#32 = formatC (opField w) (rowField w) 0 (valueField w) :=
  (and_fieldMask w 255 0 0xFFF#12).trans (by simp)

theorem and_opValueMask (w : Word) : w &&& 0xF0000FFF#32 = formatC (opField w) 0 0 (valueField w) :=
  (and_fieldMask w 0 0 0xFFF#12).trans (by simp)

theorem and_fullMask (w : Word) :
    w &&& 0xFFFFFFFF#32 = formatC (opField w) (rowField w) (channelField w) (valueField w) :=
  (and_fieldMask w 255 255 0xFFF#12).trans (by simp)

/-! ### Encode, then decode -/

theorem decodeWord_formatC (op : BitVec 4) (r c : Nat) (v : Gray) :
    decodeWord (formatC op r c v) = commandOf op (r % 256) (c % 256) v := by
  simp [decodeWord]

theorem decodeWord_encode {i : Instr} (h : WellFormed i) : decodeWord (encode i) = i := by
  cases i <;> simp only [WellFormed, wellFormed, Bool.and_eq_true, decide_eq_true_eq] at h <;>
    rw [encode, decodeWord_formatC]
  case clearRow r => rw [Nat.mod_eq_of_lt h]; rfl
  case get r c => rw [Nat.mod_eq_of_lt h.1, Nat.mod_eq_of_lt h.2]; rfl
  case set r c v => rw [Nat.mod_eq_of_lt h.1, Nat.mod_eq_of_lt h.2]; rfl
  case setRow r v => rw [Nat.mod_eq_of_lt h]; rfl
  all_goals rfl

/-- The table's bit numbering is that of the word: bit 0 is the least significant one. -/
theorem decodeTableWord_toNat (w : Word) : decodeTableWord 32 w.toNat = some (decodeWord w) := by
  have hw : ¬ (32 < 32 ∨ 2 ^ 32 ≤ w.toNat) := by have := w.isLt; omega
  have hmod : BitVec.ofNat 32 (w.toNat % 2 ^ 32) = w := by
    rw [Nat.mod_eq_of_lt w.isLt, BitVec.ofNat_toNat, BitVec.setWidth_eq]
  rw [decodeTableWord, decode, if_neg hw, hmod]
  rfl

/-- Settles O1: each field of the word reads back as what was put there, and the opcode selects the constructor. -/
theorem encodedCommandDecodesToItself : Obligations.EncodedCommandDecodesToItself := fun i h =>
  ⟨decodeWord_encode h, by rw [decodeTableWord_toNat, decodeWord_encode h]⟩

/-! ### Decode, then encode -/

theorem opcodeOf_commandOf (op : BitVec 4) (r c : Nat) (v : Gray) : opcodeOf (commandOf op r c v) = op := by
  obtain ⟨n, hn⟩ := op
  interval_cases n <;> rfl

theorem opField_of_decodeWord {w : Word} {i : Instr} (h : decodeWord w = i) : opField w = opcodeOf i := by
  rw [← h, decodeWord, opcodeOf_commandOf]

/-- The operands of a decoded command are the fields of the word. -/
theorem eq_commandOf_of_decodeWord {w : Word} {i : Instr} (h : decodeWord w = i) :
    i = commandOf (opcodeOf i) (rowField w) (channelField w) (valueField w) := by
  rw [← opField_of_decodeWord h, ← h, decodeWord]

theorem wellFormed_decodeWord (w : Word) : WellFormed (decodeWord w) := by
  have hr := rowField_lt w
  have hc := channelField_lt w
  cases h : decodeWord w <;> cases eq_commandOf_of_decodeWord h
  case clearRow => exact decide_eq_true hr
  case get => simp [WellFormed, wellFormed, hr, hc]
  case set => simp [WellFormed, wellFormed, hr, hc]
  case setRow => exact decide_eq_true hr
  all_goals rfl

theorem encode_decodeWord (w : Word) : encode (decodeWord w) = w &&& usedMask w := by
  cases h : decodeWord w <;> cases eq_commandOf_of_decodeWord h <;> rw [usedMask, h]
  case clearRow => rw [and_opRowMask, opField_of_decodeWord h]; rfl
  case get => rw [and_opRowChannelMask, opField_of_decodeWord h]; rfl
  case set => rw [and_fullMask, opField_of_decodeWord h]; rfl
  case setRow => rw [and_opRowValueMask, opField_of_decodeWord h]; rfl
  case setAll => rw [and_opValueMask, opField_of_decodeWord h]; rfl
  case initv => rw [and_opValueMask, opField_of_decodeWord h]; rfl
  all_goals rw [and_opMask, opField_of_decodeWord h]; rfl

/-- Settles O2: the decoded command's opcode and operands are the fields of the word, and its mask keeps just those. -/
theorem decodedWordEncodesToItsUsedFields : Obligations.DecodedWordEncodesToItsUsedFields := fun w =>
  ⟨wellFormed_decodeWord w, encode_decodeWord w⟩

/-- The fields a command does not use do not select it (R64): by O1 a word decodes like its used fields. -/
theorem decodeWord_congr {w w' : Word} (h : w &&& usedMask w = w' &&& usedMask w') : decodeWord w = decodeWord w' := by
  rw [← encode_decodeWord, ← encode_decodeWord] at h
  rw [← decodeWord_encode (wellFormed_decodeWord w), h, decodeWord_encode (wellFormed_decodeWord w')]

/-- An assembler writes the unused fields as zero (R64). -/
theorem encode_and_usedMask {i : Instr} (h : WellFormed i) : encode i &&& usedMask (encode i) = encode i := by
  rw [← encode_decodeWord, decodeWord_encode h]

/-! ### Words written out -/

theorem formatC_toNat_of_lt (op : BitVec 4) {r c : Nat} (hr : r < 256) (hc : c < 256) (v : Gray) :
    (formatC op r c v).toNat = op.toNat * 2 ^ 28 + r * 2 ^ 20 + c * 2 ^ 12 + v.toNat := by
  rw [formatC_toNat, Nat.mod_eq_of_lt hr, Nat.mod_eq_of_lt hc]

/-- Settles O5: each word is the weighted sum of its fields, the unused ones 0. -/
theorem encodedWordsAreTheSyntaxTablesSums : Obligations.EncodedWordsAreTheSyntaxTablesSums := by
  have h0 : 0 < 256 := by decide
  refine ⟨rfl, rfl, fun r hr => ?_, fun r hr c hc => ?_, fun r hr c hc v => ?_, fun r hr v => ?_, fun v => ?_, rfl,
    fun v => ?_, rfl, rfl, rfl, rfl⟩
  · simp [encode, formatC_toNat_of_lt _ hr h0]
  · simp [encode, formatC_toNat_of_lt _ hr hc]
  · simp [encode, formatC_toNat_of_lt _ hr hc]
  · simp [encode, formatC_toNat_of_lt _ hr h0]
  · simp [encode, formatC_toNat_of_lt _ h0 h0]
  · simp [encode, formatC_toNat_of_lt _ h0 h0]

/-- Settles O4: sixteen fixed words, each decoded by evaluation. -/
theorem specWordsDecodeToTheirCommands : Obligations.SpecWordsDecodeToTheirCommands := by
  unfold Obligations.SpecWordsDecodeToTheirCommands
  decide

end Sys2Proof
end

section
/-! PROOFS. What a tick takes from the input ports (R13, R64, R70): only whether a command is taken and which one steers
it; the word itself goes into a fault record and nowhere else, and the ports are replaced at the end of the tick. -/

namespace Sys2Proof.Machine

/-- `s` with other input ports in this tick. -/
def State.withPort (s : State) (p : InPorts) : State := { s with port := p }

/-- The same outcome with another command word on record. -/
def withRecordedWord (w : Word) :
    Host.Outcome State Fault Refusal → Host.Outcome State Fault Refusal
  | .next t => .next t
  | .fault f => .fault (f.withWord w)
  | .refused r => .refused r

/-- The same outcome of a command step with other input ports: they show in the state and in the fault record. -/
def onPort (p : InPorts) : Host.Outcome State Fault Refusal → Host.Outcome State Fault Refusal
  | .next t => .next (t.withPort p)
  | .fault f => .fault (f.withWord p.cmd)
  | .refused r => .refused r

theorem withRecordedWord_eq_next {w : Word} {o : Host.Outcome State Fault Refusal} {t : State} :
    withRecordedWord w o = .next t ↔ o = .next t := by
  cases o <;> simp [withRecordedWord]

theorem withRecordedWord_eq_refused {w : Word} {o : Host.Outcome State Fault Refusal} {r : Refusal} :
    withRecordedWord w o = .refused r ↔ o = .refused r := by
  cases o <;> simp [withRecordedWord]

/-! ### Step 3 -/

theorem rangeFault_withPort (s : State) (p : InPorts) (r : Nat) (c? : Option Nat) :
    (s.withPort p).rangeFault r c? = (s.rangeFault r c?).map (Fault.withWord p.cmd) := by
  rcases Nat.lt_or_ge r s.cfg.rowCount with hr | hr
  case inr => rw [rangeFault_row c? hr, rangeFault_row c? (by exact hr)]; rfl
  cases c? with
  | none => rw [rangeFault_none hr, rangeFault_none (by exact hr)]; rfl
  | some c =>
    rcases Nat.lt_or_ge c s.cfg.nCh with hc | hc
    · rw [rangeFault_some hr hc, rangeFault_some (by exact hr) (by exact hc)]; rfl
    · rw [rangeFault_channel hr hc, rangeFault_channel (by exact hr) (by exact hc)]; rfl

theorem exec_withPort (i : Instr) (s : State) (p : InPorts) : exec i (s.withPort p) = onPort p (exec i s) := by
  cases i with
  | clearRow r => simp only [exec, execClearRow, rangeFault_withPort]; cases s.rangeFault r none <;> rfl
  | get r c => simp only [exec, execGet, rangeFault_withPort]; cases s.rangeFault r (some c) <;> rfl
  | set r c v => simp only [exec, execSet, rangeFault_withPort]; cases s.rangeFault r (some c) <;> rfl
  | setRow r v => simp only [exec, execSetRow, rangeFault_withPort]; cases s.rangeFault r none <;> rfl
  | nop => rfl
  | clearAll => rfl
  | setAll v => rfl
  | init => rfl
  | initv v => rfl
  | start => rfl
  | stop => rfl
  | evtOff => rfl
  | evtOn => rfl
  | reservedD => rfl
  | reservedE => rfl
  | reservedF => rfl

theorem commandStep_withPort {s : State} {p : InPorts} (ht : (s.withPort p).cmdTaken = s.cmdTaken)
    (hc : s.cmdTaken = true → (s.withPort p).command = s.command) :
    (s.withPort p).commandStep = onPort p s.commandStep := by
  cases hs : s.cmdTaken with
  | true => rw [commandStep_taken hs, commandStep_taken (ht.trans hs), hc hs, exec_withPort]
  | false => rw [commandStep_idle hs, commandStep_idle (ht.trans hs)]; rfl

/-! ### Steps 4 to 6 -/

theorem State.nextBit_withPort (s : State) (p : InPorts) : (s.withPort p).nextBit = s.nextBit.withPort p := by
  unfold State.nextBit
  by_cases h : 0 < s.bitIdx.val
  · rw [if_pos h, if_pos (by exact h)]; rfl
  · rw [if_neg h, if_neg (by exact h)]; rfl

theorem State.shiftTick_withPort (s : State) (p : InPorts) : (s.withPort p).shiftTick = s.shiftTick.withPort p := by
  cases h : s.sub with
  | setUp => rw [State.shiftTick_setUp h, State.shiftTick_setUp (by exact h)]; rfl
  | high => rw [State.shiftTick_high h, State.shiftTick_high (by exact h)]; rfl
  | low =>
    cases hl : s.atLastBit with
    | true => rw [State.shiftTick_low_last h hl, State.shiftTick_low_last (by exact h) (by exact hl)]; rfl
    | false => rw [State.shiftTick_low_next h hl, State.shiftTick_low_next (by exact h) (by exact hl), nextBit_withPort]

theorem State.sequence_withPort (s : State) (p : InPorts) (acc : Bool) :
    (s.withPort p).sequence acc = (s.sequence acc).withPort p := by
  cases acc with
  | true => rfl
  | false =>
    cases h : s.seqState with
    | busy => rw [State.sequence_busy h, State.sequence_busy (by exact h), shiftTick_withPort]
    | idle => rw [State.sequence_idle h, State.sequence_idle (by exact h)]

theorem State.advanceCounters_withPort (s : State) (p : InPorts) (run stop : Bool) :
    (s.withPort p).advanceCounters run stop = (s.advanceCounters run stop).withPort p := by
  cases run <;> cases stop <;> rfl

/-- The ports of this tick are gone at its end; `STOP` is the one command steps 4 to 6 look at. -/
theorem State.finishTick_withPort {s : State} {p : InPorts} (hstop : (s.withPort p).stopTaken = s.stopTaken)
    (s1 : State) : (s.withPort p).finishTick (s1.withPort p) = s.finishTick s1 := by
  have hbook (req acc stop : Bool) : (s1.withPort p).bookEvent req acc stop = (s1.bookEvent req acc stop).withPort p :=
    rfl
  rw [State.finishTick, hstop, hbook, sequence_withPort, advanceCounters_withPort]
  rfl

/-! ### The tick -/

/-- A tick with other input ports that takes the same command, or none, goes the same way but for the word on record. -/
theorem clockTick_withPort {s : State} {p : InPorts} (hp : p.rst = s.port.rst)
    (ht : (s.withPort p).cmdTaken = s.cmdTaken) (hc : s.cmdTaken = true → (s.withPort p).command = s.command) :
    clockTick (s.withPort p) = withRecordedWord p.cmd (clockTick s) := by
  by_cases hv : s.cfg.Valid
  case neg => rw [clockTick_of_not_valid hv, clockTick_of_not_valid (by exact hv)]; rfl
  cases hr : s.port.rst with
  | true => rw [clockTick_reset hv hr, clockTick_reset (by exact hv) (hp.trans hr)]; rfl
  | false =>
    cases hf : s.timingFault with
    | some k =>
      rw [clockTick_of_timingFault hv hr hf, clockTick_of_timingFault (by exact hv) (hp.trans hr) (by exact hf)]
      rfl
    | none =>
      have hstep := commandStep_withPort ht hc
      cases ho : s.commandStep with
      | next s1 =>
        rw [ho] at hstep
        have hstop : (s.withPort p).stopTaken = s.stopTaken := by
          rw [State.stopTaken, State.stopTaken, ht]
          cases hs : s.cmdTaken with
          | true => rw [hc hs]
          | false => rfl
        rw [clockTick_next hv hr hf ho, clockTick_next (by exact hv) (hp.trans hr) (by exact hf) hstep,
          State.finishTick_withPort hstop]
        rfl
      | fault f =>
        rw [ho] at hstep
        rw [clockTick_of_commandFault hv hr hf ho,
          clockTick_of_commandFault (by exact hv) (hp.trans hr) (by exact hf) hstep]
        rfl
      | refused r => exact absurd ho (commandStep_not_refused s r)

/-! ### Presented words -/

/-- Two words for one command, presented in the same state. -/
theorem step_present_of_decodeWord_eq (s : State) {w w' : Word} (h : decodeWord w = decodeWord w') :
    step (s.present w') = withRecordedWord w' (step (s.present w)) :=
  clockTick_withPort (s := s.present w) (p := ⟨false, true, w'⟩) rfl rfl fun _ => h.symm

/-- Settles O3: words that agree in their used fields are words for one command; the word an assembler writes is its own
used part; and opcode 1 is `CLEAR_ALL`, which checks nothing. -/
theorem unusedFieldsAreIgnored : Obligations.UnusedFieldsAreIgnored := by
  refine ⟨fun s w w' h => ?_, fun i => encode_and_usedMask, fun s w h => ?_⟩
  · rw [step_present_of_decodeWord_eq s (decodeWord_congr h)]
    exact ⟨fun t => withRecordedWord_eq_next.symm, fun f hf => by rw [hf]; rfl,
      fun r => withRecordedWord_eq_refused.symm⟩
  · rw [decodeWord, h]
    exact ⟨_, rfl⟩

/-- Settles O8: the tick takes no command either way, so it can fault only by a fault condition, which records no
word. -/
theorem unreadyPortIgnoresTheHost : Obligations.UnreadyPortIgnoresTheHost := by
  intro s v v' w w' h
  have hnot (p : InPorts) : (s.withPort p).cmdTaken = false := by
    have hready : (s.withPort p).cmdReady = false := h
    rw [State.cmdTaken, hready, Bool.and_false]
  have hstep : clockTick (s.withPort ⟨false, v', w'⟩) = withRecordedWord w' (clockTick (s.withPort ⟨false, v, w⟩)) :=
    clockTick_withPort (s := s.withPort ⟨false, v, w⟩) (p := ⟨false, v', w'⟩) rfl ((hnot _).trans (hnot _).symm)
      fun ht => by cases (hnot _).symm.trans ht
  refine Eq.symm (hstep.trans ?_)
  cases ho : clockTick (s.withPort ⟨false, v, w⟩) with
  | next t => exact ho.symm
  | refused r => exact ho.symm
  | fault f =>
    obtain ⟨-, -, ⟨k, -, rfl⟩ | ⟨-, ht, -⟩⟩ := clockTick_fault ho
    · exact ho.symm
    · cases (hnot _).symm.trans ht

/-! ### Placed words -/

theorem State.readied_cfg (s : State) : s.readied.cfg = s.cfg := by
  unfold State.readied; split <;> rfl

/-- `readied` makes the port ready and leaves no fault condition (log entry 11). -/
theorem State.readied_ready (s : State) : s.readied.cmdReady = true ∧ s.readied.timingFault = none := by
  unfold State.readied
  split
  · next h => simpa using h
  · simp [State.cmdReady, State.accept, State.busy, State.timingFault]

/-- Settles O7: the word is placed where the port is ready and no fault condition holds, and O6 says what such a step
does. -/
theorem placedWordRunsInTheNextStep : Obligations.PlacedWordRunsInTheNextStep := by
  intro s w hv
  obtain ⟨hready, hf⟩ := s.readied_ready
  have hword : (s.withFetchWord 32 w).port.cmd = BitVec.ofNat 32 w := by
    apply BitVec.eq_of_toNat_eq
    simp [State.withFetchWord, State.presentTableWord, State.present]
  have hvalid : (s.withFetchWord 32 w).cfg.Valid := by
    have hcfg : (s.withFetchWord 32 w).cfg = s.cfg := s.readied_cfg
    rwa [hcfg]
  rw [← hword]
  exact (stepRunsTheDecodedCommand (s.withFetchWord 32 w) hvalid rfl hf).1 hready

end Sys2Proof.Machine
end

section
/-! PROOFS. The host's wait (R69, R70, R188). A machine on time raises no fault condition and stays on time while the
host waits; how long that is can be read off the state, and one tick of waiting takes one off. -/

namespace Sys2Proof.Machine

/-! ### The position of a shift (R24) -/

theorem shiftPos_lt {s : State} (h : s.byteIdx < s.cfg.rowBytes) : s.shiftPos < s.cfg.shiftTicks := by
  have hsub : s.sub.num ≤ 2 := by cases s.sub <;> decide
  simp only [State.shiftPos, Cfg.shiftTicks, ticksPerBit, Cfg.rowBits]
  omega

/-- A tick of a shift moves one position on; the one at the last position ends the shift (R137 to R139). -/
theorem shiftTick_shiftPos (s : State) :
    (s.shiftPos + 1 = s.cfg.shiftTicks ∧ s.shiftTick.seqState = .idle) ∨
    (s.shiftTick.seqState = s.seqState ∧ s.shiftTick.shiftPos = s.shiftPos + 1) := by
  cases hsub : s.sub with
  | setUp => exact .inr (by rw [State.shiftTick_setUp hsub]; simp [State.shiftPos, hsub, SubTick.num])
  | high => exact .inr (by rw [State.shiftTick_high hsub]; simp [State.shiftPos, hsub, SubTick.num])
  | low =>
    cases hl : s.atLastBit with
    | true =>
      obtain ⟨hbit, hbyte⟩ : s.bitIdx.val = 0 ∧ s.byteIdx + 1 = s.cfg.rowBytes := by simpa [State.atLastBit] using hl
      refine .inl ⟨?_, by rw [State.shiftTick_low_last hsub hl]; rfl⟩
      simp only [State.shiftPos, Cfg.shiftTicks, ticksPerBit, Cfg.rowBits, hbit, hsub, SubTick.num]
      omega
    | false =>
      refine .inr ⟨by rw [State.shiftTick_low_next hsub hl, State.nextBit_seqState], ?_⟩
      have hbit := s.bitIdx.isLt
      rw [State.shiftTick_low_next hsub hl, State.nextBit]
      split <;> simp only [State.shiftPos, hsub, SubTick.num] <;> omega

@[simp] theorem State.finishTick_shiftPos (s s1 : State) : (s.finishTick s1).shiftPos = (s1.sequence s.accept).shiftPos := by
  simp [State.shiftPos]

/-! ### A machine on time (R147) -/

/-- During a shift accepted in time the phase has moved on by the position, over the end of the period at most once, and
so lies between this latch pulse and the next one (R8 f, R145). -/
theorem OnTime.phase_of_busy {s : State} (h : Inv s) (ho : OnTime s) (hb : s.seqState = .busy) :
    s.blPhase = s.cfg.eventPhase + 1 + s.shiftPos ∨ s.blPhase + s.cfg.pBlank = s.cfg.eventPhase + 1 + s.shiftPos := by
  have hlate : s.blPhase = (s.cfg.eventPhase + 0 + 1 + s.shiftPos) % s.cfg.pBlank := ho.punctual hb
  have hpos := shiftPos_lt h.byteRange
  obtain ⟨-, ⟨-, -, hblank⟩, ⟨-, hend⟩, ⟨-, hevent⟩, -, hshift⟩ := h.valid
  unfold Cfg.latchEnd at hend
  rcases Nat.lt_or_ge (s.cfg.eventPhase + 1 + s.shiftPos) s.cfg.pBlank with hlt | hge
  · exact .inl (by rw [hlate, Nat.add_zero, Nat.mod_eq_of_lt hlt])
  · rw [Nat.add_zero, Nat.mod_eq_sub_mod hge, Nat.mod_eq_of_lt (by omega)] at hlate
    omega

theorem OnTime.evtFire_of_busy {s : State} (h : Inv s) (ho : OnTime s) (hb : s.seqState = .busy) :
    s.evtFire = false := by
  have hphase := ho.phase_of_busy h hb
  have hpos := shiftPos_lt h.byteRange
  obtain ⟨-, -, -, ⟨hevent, -⟩, -, hshift⟩ := h.valid
  unfold Cfg.latchEnd at hevent
  have hne : s.blPhase ≠ s.cfg.eventPhase := by omega
  simp [State.evtFire, hne]

theorem OnTime.xlat_of_busy {s : State} (h : Inv s) (ho : OnTime s) (hb : s.seqState = .busy) : s.xlat = false := by
  have hphase := ho.phase_of_busy h hb
  have hpos := shiftPos_lt h.byteRange
  obtain ⟨-, -, -, ⟨hevent, -⟩, -, hshift⟩ := h.valid
  have hout : s.cfg.latchStart ≤ s.blPhase → s.cfg.latchEnd ≤ s.blPhase := by omega
  simpa [State.xlat] using hout

/-- No fault condition of R163 holds in a machine on time (R147). -/
theorem OnTime.timingFault_none {s : State} (h : Inv s) (ho : OnTime s) : s.timingFault = none := by
  cases hb : s.seqState with
  | busy => simp [State.timingFault, ho.xlat_of_busy h hb, ho.evtFire_of_busy h hb]
  | idle => simp [State.timingFault, State.busy, hb, ho.nonePending]

theorem OnTime.evtReq_eq {s : State} (ho : OnTime s) : s.evtReq = s.evtFire := by
  simp [State.evtReq, ho.nonePending]

/-- An event is accepted in the tick it fires (R134, R147). -/
theorem OnTime.accept_eq_evtFire {s : State} (h : Inv s) (ho : OnTime s) : s.accept = s.evtFire := by
  cases hb : s.seqState with
  | busy => simp [State.accept, State.busy, hb, ho.evtFire_of_busy h hb]
  | idle => simp [State.accept, State.busy, hb, ho.evtReq_eq, ho.enabled]

theorem evtFire_iff (s : State) : s.evtFire = true ↔ s.run = true ∧ s.blPhase = s.cfg.eventPhase := by
  simp [State.evtFire]

theorem Inv.run_of_busy {s : State} (h : Inv s) (hb : s.seqState = .busy) : s.run = true := by
  by_contra hr
  obtain ⟨-, -, -, hi⟩ := h.stopped (by simpa using hr)
  cases hb.symm.trans hi

/-! ### The ticks that take no command -/

/-- An accepted event starts its shift at position 0 (R136). -/
theorem finishTick_accept (s s1 : State) (ha : s.accept = true) :
    (s.finishTick s1).seqState = .busy ∧ (s.finishTick s1).shiftPos = 0 := by
  rw [State.finishTick_seqState, State.finishTick_shiftPos, ha]
  exact ⟨rfl, rfl⟩

/-- A tick of a shift ends it or moves it on. -/
theorem finishTick_busy {s : State} (hb : s.seqState = .busy) :
    (s.shiftPos + 1 = s.cfg.shiftTicks ∧ (s.finishTick s.dropRvalid).seqState = .idle) ∨
    ((s.finishTick s.dropRvalid).seqState = .busy ∧ (s.finishTick s.dropRvalid).shiftPos = s.shiftPos + 1) := by
  have ha : s.accept = false := by simp [State.accept, State.busy, hb]
  rw [State.finishTick_seqState, State.finishTick_shiftPos, ha, State.sequence_busy (by exact hb)]
  exact (shiftTick_shiftPos s.dropRvalid).imp id fun ⟨hq, hp⟩ => ⟨hq.trans hb, hp⟩

/-- A running generator moves on in a tick that takes no command (R111). -/
theorem finishTick_blPhase_of_not_taken {s : State} (hn : s.cmdTaken = false) (hr : s.run = true) :
    (s.finishTick s.dropRvalid).blPhase = (s.blPhase + 1) % s.cfg.pBlank := by
  simp [State.stopTaken, hn, hr]

/-- A tick without reset that takes no `STOP` and leaves events on keeps a machine on time (R147). -/
theorem OnTime.finishTick {s s1 : State} (h : Inv s) (ho : OnTime s) (hs : s.commandStep = .next s1)
    (hen : s1.evtEn = true) : OnTime (s.finishTick s1) where
  enabled := by rw [State.finishTick_evtEn, hen]
  nonePending := by simp [ho.evtReq_eq, ho.accept_eq_evtFire h]
  punctual := fun hbusy => by
    have hn : s.cmdTaken = false := by
      by_contra ht
      obtain ⟨-, hi, ha⟩ := s.cmdTaken_iff.mp (by simpa using ht)
      cases (finishTick_idle hs ha hi).symm.trans hbusy
    rw [commandStep_idle hn] at hs
    cases hs
    have hlate (hr : s.run = true) (hphase : (s.blPhase + 1) % s.cfg.pBlank =
        (s.cfg.eventPhase + 0 + 1 + (s.finishTick s.dropRvalid).shiftPos) % s.cfg.pBlank) :
        (s.finishTick s.dropRvalid).lateBy 0 := by
      rw [State.lateBy, finishTick_blPhase_of_not_taken hn hr, hphase, State.finishTick_cfg]; rfl
    cases ha : s.accept with
    | true =>
      obtain ⟨hr, hphase⟩ := (evtFire_iff s).mp ((ho.accept_eq_evtFire h).symm.trans ha)
      exact hlate hr (by rw [(finishTick_accept s _ ha).2, hphase])
    | false =>
      cases hb : s.seqState with
      | idle => cases (finishTick_idle (commandStep_idle hn) ha hb).symm.trans hbusy
      | busy =>
        have hphase : s.blPhase = (s.cfg.eventPhase + 0 + 1 + s.shiftPos) % s.cfg.pBlank := ho.punctual hb
        rcases finishTick_busy hb with ⟨-, hi⟩ | ⟨-, hp⟩
        · cases hi.symm.trans hbusy
        · exact hlate (h.run_of_busy hb) (by rw [hp, hphase, Nat.mod_add_mod, ← Nat.add_assoc])

/-! ### How long the host waits -/

/-- The ticks until the port is ready: an event accepted now makes it wait for the acceptance and the whole shift, a
running shift for what is left of it (R31, R145). -/
def State.waitTicks (s : State) : Nat :=
  if s.accept then s.cfg.shiftTicks + 1
  else match s.seqState with
    | .busy => s.cfg.shiftTicks - s.shiftPos
    | .idle => 0

theorem waitTicks_accept {s : State} (ha : s.accept = true) : s.waitTicks = s.cfg.shiftTicks + 1 := by
  simp [State.waitTicks, ha]

theorem waitTicks_busy {s : State} (hb : s.seqState = .busy) : s.waitTicks = s.cfg.shiftTicks - s.shiftPos := by
  simp [State.waitTicks, State.accept, State.busy, hb]

theorem waitTicks_idle {s : State} (ha : s.accept = false) (hi : s.seqState = .idle) : s.waitTicks = 0 := by
  simp [State.waitTicks, ha, hi]

theorem waitTicks_le (s : State) : s.waitTicks ≤ s.cfg.shiftTicks + 1 := by
  cases ha : s.accept with
  | true => exact (waitTicks_accept ha).le
  | false =>
    cases hb : s.seqState with
    | busy => rw [waitTicks_busy hb]; omega
    | idle => rw [waitTicks_idle ha hb]; omega

/-- A presented command is taken exactly when there is nothing to wait for. -/
theorem Inv.cmdTaken_present_iff {s : State} (h : Inv s) (w : Word) :
    (s.present w).cmdTaken = true ↔ s.waitTicks = 0 := by
  have hready : (s.present w).cmdTaken = (!s.busy && !s.accept) := rfl
  rw [hready]
  cases ha : s.accept with
  | true => simp [waitTicks_accept ha]
  | false =>
    cases hb : s.seqState with
    | busy =>
      have hpos := shiftPos_lt h.byteRange
      have hwait : s.waitTicks ≠ 0 := by rw [waitTicks_busy hb]; omega
      simp [State.busy, hb, hwait]
    | idle => simp [State.busy, hb, waitTicks_idle ha hb]

/-- When a shift accepted in time has ended the next event has not fired yet: the shift is shorter than the period
(R8 f, R146). -/
theorem OnTime.not_accept_after_shift {s : State} (h : Inv s) (ho : OnTime s) (hb : s.seqState = .busy)
    (hlast : s.shiftPos + 1 = s.cfg.shiftTicks) : (s.finishTick s.dropRvalid).accept = false := by
  have hn := State.not_taken_of_busy hb
  have hs := commandStep_idle hn
  have hphase := ho.phase_of_busy h hb
  have hrange := h.blRange
  obtain ⟨-, ⟨hduty, -⟩, -, ⟨hevent, -⟩, -, hshift⟩ := h.valid
  unfold Cfg.latchEnd at hevent
  have hne : (s.blPhase + 1) % s.cfg.pBlank ≠ s.cfg.eventPhase := by
    rcases Nat.lt_or_ge (s.blPhase + 1) s.cfg.pBlank with hlt | hge
    · rw [Nat.mod_eq_of_lt hlt]; omega
    · have hwrap : s.blPhase + 1 = s.cfg.pBlank := by omega
      rw [hwrap, Nat.mod_self]; omega
  rw [(ho.finishTick h hs ho.enabled).accept_eq_evtFire (h.finishTick hs), State.evtFire,
    finishTick_blPhase_of_not_taken hn (h.run_of_busy hb)]
  simp [hne]

/-- One tick of waiting takes one off. -/
theorem OnTime.waitTicks_finishTick {s : State} (h : Inv s) (ho : OnTime s) (hw : s.waitTicks ≠ 0) :
    (s.finishTick s.dropRvalid).waitTicks + 1 = s.waitTicks := by
  cases ha : s.accept with
  | true =>
    obtain ⟨hbusy, hpos⟩ := finishTick_accept s s.dropRvalid ha
    rw [waitTicks_accept ha, waitTicks_busy hbusy, hpos]
    simp
  | false =>
    cases hb : s.seqState with
    | idle => exact absurd (waitTicks_idle ha hb) hw
    | busy =>
      have hlt := shiftPos_lt h.byteRange
      rw [waitTicks_busy hb]
      rcases finishTick_busy hb with ⟨hlast, hi⟩ | ⟨hbusy, hpos⟩
      · rw [waitTicks_idle (ho.not_accept_after_shift h hb hlast) hi]; omega
      · rw [waitTicks_busy hbusy, hpos, State.finishTick_cfg, State.dropRvalid_cfg]; omega

/-! ### Calls -/

theorem Inv.present {s : State} (h : Inv s) (w : Word) : Inv (s.present w) := h.withHost _ _ _

theorem OnTime.present {s : State} (ho : OnTime s) (w : Word) : OnTime (s.present w) :=
  ⟨ho.enabled, ho.nonePending, ho.punctual⟩

/-- In a machine on time a tick that presents a word completes if its command step does. -/
theorem OnTime.step_present {s s1 : State} {w : Word} (h : Inv s) (ho : OnTime s)
    (hs : (s.present w).commandStep = .next s1) : step (s.present w) = .next ((s.present w).finishTick s1) :=
  clockTick_next h.valid rfl ((ho.present w).timingFault_none (h.present w)) hs

/-- A tick of waiting: it completes, leaves the buffer alone and the machine on time, and the call goes on. -/
theorem OnTime.wait_tick {s : State} {k : Nat} (w : Word) (h : Inv s) (ho : OnTime s) (hk : s.waitTicks = k + 1) :
    ∃ t, Inv t ∧ OnTime t ∧ t.waitTicks = k ∧ t.buf = s.buf ∧ t.cfg = s.cfg ∧
      (∀ n, afterPresenting w (n + 1) s = afterPresenting w n t) ∧
      ∀ n, callUntilTaken w (n + 1) s = callUntilTaken w n t := by
  have hn : (s.present w).cmdTaken = false := by
    rw [← Bool.not_eq_true, h.cmdTaken_present_iff, hk]; omega
  have hs := commandStep_idle hn
  have hstep := ho.step_present h hs
  have hwait : ((s.present w).finishTick (s.present w).dropRvalid).waitTicks + 1 = k + 1 :=
    ((ho.present w).waitTicks_finishTick (h.present w) (ne_of_eq_of_ne hk k.succ_ne_zero)).trans hk
  refine ⟨_, (h.present w).finishTick hs, (ho.present w).finishTick (h.present w) hs ho.enabled,
    Nat.succ.inj hwait, by simp [State.present], by simp [State.present], fun n => ?_, fun n => ?_⟩
  · rw [afterPresenting, hstep]
  · rw [callUntilTaken, hstep, hn]; rfl

/-- The host waits `waitTicks` ticks, and then the port is ready. -/
theorem OnTime.present_until_ready (w : Word) (k : Nat) : ∀ {s : State}, Inv s → OnTime s → s.waitTicks = k →
    ∃ u, Inv u ∧ OnTime u ∧ u.waitTicks = 0 ∧ u.buf = s.buf ∧ u.cfg = s.cfg ∧ afterPresenting w k s = some u ∧
      ∀ n, callUntilTaken w (n + k) s = callUntilTaken w n u := by
  induction k with
  | zero => exact fun {s} h ho hk => ⟨s, h, ho, hk, rfl, rfl, rfl, fun _ => rfl⟩
  | succ k ih =>
    intro s h ho hk
    obtain ⟨t, ht, hto, htk, hbuf, hcfg, hafter, hcall⟩ := ho.wait_tick w h hk
    obtain ⟨u, hu, huo, hu0, hubuf, hucfg, huafter, hucall⟩ := ih ht hto htk
    exact ⟨u, hu, huo, hu0, hubuf.trans hbuf, hucfg.trans hcfg, (hafter k).trans huafter,
      fun n => (hcall (n + k)).trans (hucall n)⟩

/-- A ready port takes the word at once, and the call answers what its command does. -/
theorem OnTime.callUntilTaken_ready {u : State} (w : Word) (h : Inv u) (ho : OnTime u) (hu : u.waitTicks = 0)
    (n : Nat) (t : State) : callUntilTaken w (n + 1) u = some t ↔
      ∃ u1, exec (decodeWord w) (u.present w) = .next u1 ∧ t = (u.present w).finishTick u1 := by
  have ht : (u.present w).cmdTaken = true := (h.cmdTaken_present_iff w).mpr hu
  have hs : (u.present w).commandStep = exec (decodeWord w) (u.present w) := commandStep_taken ht
  cases he : exec (decodeWord w) (u.present w) with
  | next u1 =>
    rw [callUntilTaken, ho.step_present h (hs.trans he)]
    simp [ht, eq_comm]
  | fault f =>
    have hstep : step (u.present w) = .fault f := clockTick_of_commandFault h.valid rfl
      ((ho.present w).timingFault_none (h.present w)) (hs.trans he)
    rw [callUntilTaken, hstep]
    simp
  | refused r => exact absurd he (exec_not_refused _ _ _)

/-- Whether a command completes depends on the configuration alone (R65, R80). -/
theorem exec_completes_congr {i : Instr} {s s' t : State} (hcfg : s'.cfg = s.cfg) (h : exec i s = .next t) :
    ∃ t', exec i s' = .next t' := by
  rcases exec_cases h with ⟨rfl, -⟩ | ⟨rfl | rfl, -⟩ | ⟨r, rfl, hr, -⟩ | ⟨r, c, rfl, hr, hc, -⟩ |
    ⟨r, c, v, rfl, hr, hc, -⟩ | ⟨r, v, rfl, hr, -⟩ | ⟨v, rfl | rfl, -⟩ | ⟨rfl, -⟩ | ⟨rfl, -⟩ | ⟨rfl, -⟩ | ⟨rfl, -⟩
  case inr.inr.inl => exact ⟨_, exec_clearRow_next (by rwa [hcfg])⟩
  case inr.inr.inr.inl => exact ⟨_, exec_get_next (by rwa [hcfg]) (by rwa [hcfg])⟩
  case inr.inr.inr.inr.inl => exact ⟨_, exec_set_next (by rwa [hcfg]) (by rwa [hcfg])⟩
  case inr.inr.inr.inr.inr.inl => exact ⟨_, exec_setRow_next (by rwa [hcfg])⟩
  all_goals exact ⟨_, rfl⟩

/-- What a call from a machine on time comes to: a bounded wait, and then the command. -/
theorem OnTime.call_served {s : State} (w : Word) (h : Inv s) (ho : OnTime s) :
    ∃ n u, n ≤ s.cfg.shiftTicks + 1 ∧ afterPresenting w n s = some u ∧ (u.present w).cmdTaken = true ∧
      u.buf = s.buf ∧ u.cfg = s.cfg ∧ ∀ t, callUntilTaken w (s.cfg.shiftTicks + 2) s = some t ↔
        ∃ u1, exec (decodeWord w) (u.present w) = .next u1 ∧ t = (u.present w).finishTick u1 := by
  obtain ⟨u, hu, huo, hready, hbuf, hcfg, hafter, hcall⟩ := ho.present_until_ready w s.waitTicks h rfl
  have hle := waitTicks_le s
  have hfuel : s.cfg.shiftTicks + 2 = s.cfg.shiftTicks + 1 - s.waitTicks + 1 + s.waitTicks := by omega
  refine ⟨s.waitTicks, u, hle, hafter, (hu.cmdTaken_present_iff w).mpr hready, hbuf, hcfg, fun t => ?_⟩
  rw [hfuel, hcall]
  exact huo.callUntilTaken_ready w hu hready _ t

/-- A `GET` called from a machine on time reads the buffer of the call's beginning, which the wait left alone. -/
theorem OnTime.callGet_eq {s : State} {r c : Nat} (h : Inv s) (ho : OnTime s) (hr : r < s.cfg.rowCount)
    (hc : c < s.cfg.nCh) : callGet r c (s.cfg.shiftTicks + 2) s = some (readChannel s.cfg s.buf r c) := by
  obtain ⟨n, u, -, -, -, hbuf, hcfg, hcall⟩ := ho.call_served (encode (.get r c)) h
  have hrows : s.cfg.rowCount ≤ 256 := h.valid.1.2.1
  have hword : decodeWord (encode (.get r c)) = .get r c := by
    have hr256 : r < 256 := hr.trans_le hrows
    have hc256 : c < 256 := hc.trans_le (nCh_le h.valid)
    exact decodeWord_encode (by simp [WellFormed, wellFormed, hr256, hc256])
  have hexec := exec_get_next (s := u.present (encode (.get r c))) (hr.trans_eq (congrArg Cfg.rowCount hcfg.symm))
    (hc.trans_eq (congrArg Cfg.nCh hcfg.symm))
  rw [callGet, (hcall _).mpr ⟨_, by rw [hword]; exact hexec, rfl⟩]
  simp [State.present, hbuf, hcfg]

/-- Settles O55: the wait ends within `SHIFT_TICKS + 1` ticks with the buffer as it was, and whether the command then
completes was already settled by the configuration when the call began. -/
theorem hostCallsAreServedInTime : Obligations.HostCallsAreServedInTime := by
  refine ⟨fun s w h ho => ?_, fun s r c h ho hr hc => ho.callGet_eq h hr hc⟩
  obtain ⟨n, u, hn, hafter, htaken, hbuf, hcfg, hcall⟩ := ho.call_served w h
  refine ⟨⟨fun ⟨t, ht⟩ => ?_, fun ⟨t, ht⟩ => ?_⟩, fun t ht => ?_⟩
  · obtain ⟨u1, hu1⟩ := exec_completes_congr (s' := u.present w) hcfg ht
    exact ⟨_, (hcall _).mpr ⟨u1, hu1, rfl⟩⟩
  · obtain ⟨u1, hu1, -⟩ := (hcall t).mp ht
    exact exec_completes_congr (s := u.present w) hcfg.symm hu1
  · obtain ⟨u1, hu1, rfl⟩ := (hcall t).mp ht
    exact ⟨n, u, u1, hn, hafter, htaken, hbuf, hu1, rfl⟩

end Sys2Proof.Machine
end

section
/-! PROOFS. The bytes of the buffer operations: the packing formulas as arithmetic (R45, R84, R85), the pattern of a
filled row (R86), and what each store leaves at every address and in every channel. -/

namespace Sys2Proof.Machine

/-! ### Windows as numbers -/

theorem toNat_append_eq_add {m n : Nat} (x : BitVec m) (y : BitVec n) :
    (x ++ y).toNat = x.toNat * 2 ^ n + y.toNat := by
  rw [BitVec.toNat_append, ← Nat.shiftLeft_add_eq_or_of_lt y.isLt, Nat.shiftLeft_eq]

/-- The byte at the lower position is the more significant (R45). -/
theorem memRead2_toNat (m : Memory) (r i : Nat) :
    (memRead2 m r i).toNat = (memRead1 m r i).toNat * 256 + (memRead1 m r (i + 1)).toNat :=
  toNat_append_eq_add _ _

theorem windowValue_toNat (mid : Bool) (w : BitVec 16) :
    (windowValue mid w).toNat = if mid then w.toNat % 4096 else w.toNat / 16 := by
  have hw := w.isLt
  cases mid
  · simp only [windowValue, Bool.false_eq_true, if_false, BitVec.extractLsb'_toNat, Nat.shiftRight_eq_div_pow]
    omega
  · simp [windowValue]

theorem windowInsert_toNat (mid : Bool) (w : BitVec 16) (v : Gray) :
    (windowInsert mid w v).toNat =
      if mid then w.toNat / 4096 * 4096 + v.toNat else v.toNat * 16 + w.toNat % 16 := by
  have hw := w.isLt
  cases mid
  · exact (toNat_append_eq_add (m := 12) (n := 4) _ _).trans (by simp)
  · refine (toNat_append_eq_add (m := 4) (n := 12) _ _).trans ?_
    simp only [if_true, BitVec.extractLsb'_toNat, Nat.shiftRight_eq_div_pow]
    omega

/-- `bytePos` as the spec writes it (R42). -/
theorem shiftRight_eq_bytePos (c : Cfg) (ch : Nat) : ((c.nCh - 1 - ch) * 3) >>> 1 = bytePos c ch := rfl

/-- A channel's value from its two bytes (R84). -/
theorem readChannel_toNat (c : Cfg) (m : Memory) (r ch : Nat) :
    (readChannel c m r ch).toNat =
      if chanIdx c ch % 2 = 1 then
        (memRead1 m r (bytePos c ch)).toNat % 16 * 256 + (memRead1 m r (bytePos c ch + 1)).toNat
      else (memRead1 m r (bytePos c ch)).toNat * 16 + (memRead1 m r (bytePos c ch + 1)).toNat / 16 := by
  have hlow := (memRead1 m r (bytePos c ch + 1)).isLt
  simp only [readChannel, windowValue_toNat, memRead2_toNat, midByte, decide_eq_true_eq]
  split <;> omega

/-! ### One channel written -/

/-- The two bytes of a written channel (R85). -/
theorem memRead1_writeChannel_toNat {c : Cfg} {m : Memory} (hv : c.Valid) (hm : m.wf) (r : Nat) {ch : Nat}
    (hch : ch < c.nCh) (v : Gray) :
    (memRead1 (writeChannel c m r ch v) r (bytePos c ch)).toNat =
      (if chanIdx c ch % 2 = 1 then (memRead1 m r (bytePos c ch)).toNat / 16 * 16 + v.toNat / 256
       else v.toNat / 16) ∧
    (memRead1 (writeChannel c m r ch v) r (bytePos c ch + 1)).toNat =
      (if chanIdx c ch % 2 = 1 then v.toNat % 256
       else v.toNat % 16 * 16 + (memRead1 m r (bytePos c ch + 1)).toNat % 16) := by
  have hpos := Nat.lt_trans (bytePos_lt hch) (rowBytes_le_stride hv)
  have hwide := v.isLt
  have hhigh := (memRead1 m r (bytePos c ch)).isLt
  have hlow := (memRead1 m r (bytePos c ch + 1)).isLt
  simp only [writeChannel, memRead1_memWrite2 hm hpos hpos, memRead1_memWrite2 hm hpos (Nat.lt_of_succ_lt hpos),
    true_and, if_true, Nat.succ_ne_self, if_false, BitVec.extractLsb'_toNat, Nat.shiftRight_eq_div_pow,
    windowInsert_toNat, memRead2_toNat, midByte, decide_eq_true_eq]
  split <;> omega

theorem read_writeChannel_of_ne {c : Cfg} {r ch a : Nat} (h : a ≠ rowKey r (bytePos c ch))
    (h' : a ≠ rowKey r (bytePos c ch + 1)) (m : Memory) (v : Gray) : (writeChannel c m r ch v).read a = m.read a :=
  (read_write_ne _ h' _).trans (read_write_ne _ h _)

/-- A written channel changes no bit of the row's bit string but its own twelve, and no other row (R47, R85). -/
theorem rowBit_writeChannel_of_ne {c : Cfg} {m : Memory} (hv : c.Valid) (hm : m.wf) {r ch r' n : Nat}
    (hch : ch < c.nCh) (v : Gray) (hn : n / 8 < rowStride)
    (h : r' = r → n < 12 * chanIdx c ch ∨ 12 * chanIdx c ch + 12 ≤ n) :
    rowBit (writeChannel c m r ch v) r' n = rowBit m r' n := by
  have hpos := Nat.lt_trans (bytePos_lt hch) (rowBytes_le_stride hv)
  by_cases hin : r' = r ∧ (n / 8 = bytePos c ch ∨ n / 8 = bytePos c ch + 1)
  · obtain ⟨rfl, hbyte⟩ := hin
    have hout := h rfl
    obtain ⟨j, rfl⟩ : ∃ j, n = 8 * bytePos c ch + j := ⟨n - 8 * bytePos c ch, by omega⟩
    have hj : j < 16 := by omega
    rw [rowBit_window _ _ _ hj, rowBit_window _ _ _ hj, writeChannel, memRead2_memWrite2 hm r' hpos]
    refine windowInsert_keeps _ _ _ _ (by omega) ?_
    simp only [midByte, decide_eq_true_eq]
    unfold bytePos at hout
    split <;> omega
  · have hfst : ¬ (r' = r ∧ n / 8 = bytePos c ch) := fun ⟨hr, hi⟩ => hin ⟨hr, .inl hi⟩
    have hsnd : ¬ (r' = r ∧ n / 8 = bytePos c ch + 1) := fun ⟨hr, hi⟩ => hin ⟨hr, .inr hi⟩
    rw [rowBit, rowBit, memBit, memBit, writeChannel, memRead1_memWrite2 hm hpos hn, if_neg hfst, if_neg hsnd]

/-- Every other channel reads as before (R92): its bits of the row's bit string are none of the written ones. -/
theorem readChannel_writeChannel_of_ne {c : Cfg} {m : Memory} (hv : c.Valid) (hm : m.wf) {r ch r' ch' : Nat}
    (hch : ch < c.nCh) (hch' : ch' < c.nCh) (v : Gray) (h : (r', ch') ≠ (r, ch)) :
    readChannel c (writeChannel c m r ch v) r' ch' = readChannel c m r' ch' := by
  have hadd := chanIdx_add hch
  have hadd' := chanIdx_add hch'
  have hn := nCh_le hv
  refine BitVec.eq_of_getLsbD_eq fun j hj => ?_
  rw [show j = 11 - (11 - j) by omega, ← rowBit_chanIdx _ _ _ _ (by omega), ← rowBit_chanIdx _ _ _ _ (by omega)]
  refine rowBit_writeChannel_of_ne hv hm hch v (by unfold rowStride; omega) fun hr => ?_
  have hne : ch' ≠ ch := fun he => h (by rw [hr, he])
  omega

/-! ### The pattern -/

/-- The three bytes of pair `k` of a filled row (R86). -/
theorem patternByte_pair (v : Gray) (k : Nat) :
    patternByte v (3 * k) = v.extractLsb' 4 8 ∧ patternByte v (3 * k + 1) = v.extractLsb' 0 4 ++ v.extractLsb' 8 4 ∧
      patternByte v (3 * k + 2) = v.extractLsb' 0 8 := by
  simp [patternByte]

theorem patternByte_pair_toNat (v : Gray) (k : Nat) :
    (patternByte v (3 * k)).toNat = v.toNat / 16 ∧
      (patternByte v (3 * k + 1)).toNat = v.toNat % 16 * 16 + v.toNat / 256 ∧
      (patternByte v (3 * k + 2)).toNat = v.toNat % 256 := by
  have hwide := v.isLt
  obtain ⟨h0, h1, h2⟩ := patternByte_pair v k
  rw [h0, h1, h2, toNat_append_eq_add]
  simp only [BitVec.extractLsb'_toNat, Nat.shiftRight_eq_div_pow, Nat.pow_zero, Nat.div_one, and_true]
  omega

/-- The middle byte as R86 writes it: the low nibble moved up and the high nibble beside it. -/
theorem shiftLeft_or_shiftRight_eq (v : Gray) :
    ((v.toNat <<< 4) % 256) ||| (v.toNat >>> 8) = v.toNat % 16 * 16 + v.toNat / 256 := by
  have hwide := v.isLt
  have hhigh : v.toNat >>> 8 < 2 ^ 4 := by rw [Nat.shiftRight_eq_div_pow]; omega
  have hlow : (v.toNat <<< 4) % 256 = (v.toNat % 16) <<< 4 := by simp only [Nat.shiftLeft_eq]; omega
  rw [hlow, ← Nat.shiftLeft_add_eq_or_of_lt hhigh, Nat.shiftLeft_eq, Nat.shiftRight_eq_div_pow]

/-- The pattern of the value 0 is the byte 0, so the clearing commands are fills with 0 (R83, R87). -/
theorem patternByte_zero : patternByte 0#12 = fun _ => 0x00#8 := by
  funext i
  unfold patternByte
  split <;> rfl

/-- In a row of pattern bytes every channel reads the value (R86). -/
theorem readChannel_of_patternBytes {c : Cfg} {m : Memory} {r ch : Nat} {v : Gray}
    (h : ∀ i < c.rowBytes, memRead1 m r i = patternByte v i) (hch : ch < c.nCh) : readChannel c m r ch = v := by
  have hwide := v.isLt
  have hpos := bytePos_lt hch
  apply BitVec.eq_of_toNat_eq
  rw [readChannel_toNat, h _ (Nat.lt_of_succ_lt hpos), h _ hpos]
  obtain ⟨k, hk | hk⟩ := (chanIdx c ch).even_or_odd'
  · obtain ⟨h0, h1, -⟩ := patternByte_pair_toNat v k
    rw [if_neg (by omega), show bytePos c ch = 3 * k by unfold bytePos; omega, h0, h1]
    omega
  · obtain ⟨-, h1, h2⟩ := patternByte_pair_toNat v k
    rw [if_pos (by omega), show bytePos c ch = 3 * k + 1 by unfold bytePos; omega, h1, h2]
    omega

/-- A row whose channels all read one value holds the pattern: pairs of channels fill the row (R43). -/
theorem patternBytes_of_readChannel {c : Cfg} {m : Memory} {r : Nat} {v : Gray} (hv : c.Valid)
    (h : ∀ ch < c.nCh, readChannel c m r ch = v) : ∀ i < c.rowBytes, memRead1 m r i = patternByte v i := by
  intro i hi
  have hpair : i / 3 < c.nCh / 2 := by
    unfold Cfg.rowBytes at hi
    unfold Cfg.nCh
    omega
  obtain ⟨h0, h1, h2⟩ := (rowIsABitStringOfChannels c m r hv).1 (i / 3) hpair v v (h _ (by omega)).symm
    (h _ (by omega)).symm
  obtain ⟨p0, p1, p2⟩ := patternByte_pair v (i / 3)
  obtain hmod | hmod | hmod : i = 3 * (i / 3) ∨ i = 3 * (i / 3) + 1 ∨ i = 3 * (i / 3) + 2 := by omega
  · rw [hmod, h0, p0]
  · rw [hmod, h1, p1]
  · rw [hmod, h2, p2]

/-! ### Filled rows -/

theorem read_fillRow_of_ne {r n a : Nat} (h : ∀ i < n, a ≠ rowKey r i) (m : Memory) (f : Nat → Byte) :
    (fillRow m r f n).read a = m.read a := by
  induction n with
  | zero => rfl
  | succ n ih =>
    exact (read_write_ne _ (h n n.lt_succ_self) _).trans (ih fun i hi => h i (Nat.lt_succ_of_lt hi))

theorem read_fillRows_of_ne {k n a : Nat} (h : ∀ r < k, ∀ i < n, a ≠ rowKey r i) (m : Memory) (f : Nat → Byte) :
    (fillRows m f n k).read a = m.read a := by
  induction k with
  | zero => rfl
  | succ k ih =>
    exact (read_fillRow_of_ne (h k k.lt_succ_self) _ f).trans (ih fun r hr => h r (Nat.lt_succ_of_lt hr))

theorem zeroRow_eq_patternRow (c : Cfg) (m : Memory) (r : Nat) : zeroRow c m r = patternRow c m r 0#12 := by
  rw [zeroRow, patternRow, patternByte_zero]

theorem zeroAll_eq_patternAll (c : Cfg) (m : Memory) : zeroAll c m = patternAll c m 0#12 := by
  rw [zeroAll, patternAll, patternByte_zero]

theorem memRead1_patternRow {c : Cfg} {m : Memory} (hv : c.Valid) (hm : m.wf) (r : Nat) (v : Gray) :
    ∀ i < c.rowBytes, memRead1 (patternRow c m r v) r i = patternByte v i := fun i hi => by
  have hrow := rowBytes_le_stride hv
  rw [patternRow, memRead1_fillRow hm _ hrow.le (Nat.lt_trans hi hrow), if_pos ⟨rfl, hi⟩]

theorem memRead1_patternAll {c : Cfg} {m : Memory} (hv : c.Valid) (hm : m.wf) {r : Nat} (hr : r < c.rowCount)
    (v : Gray) : ∀ i < c.rowBytes, memRead1 (patternAll c m v) r i = patternByte v i := fun i hi => by
  have hrow := rowBytes_le_stride hv
  rw [patternAll, memRead1_fillRows hm _ hrow.le (Nat.lt_trans hi hrow), if_pos ⟨hr, hi⟩]

theorem readChannel_patternRow {c : Cfg} {m : Memory} (hv : c.Valid) (hm : m.wf) (r : Nat) (v : Gray) :
    ∀ ch < c.nCh, readChannel c (patternRow c m r v) r ch = v := fun _ hch =>
  readChannel_of_patternBytes (memRead1_patternRow hv hm r v) hch

theorem readChannel_patternAll {c : Cfg} {m : Memory} (hv : c.Valid) (hm : m.wf) (v : Gray) :
    ∀ r < c.rowCount, ∀ ch < c.nCh, readChannel c (patternAll c m v) r ch = v := fun _ hr _ hch =>
  readChannel_of_patternBytes (memRead1_patternAll hv hm hr v) hch

/-- A canonical buffer that differs from `m` in row `r` only, all channels of which read `v`, is `m` with the row
filled. -/
theorem eq_patternRow {c : Cfg} {m m' : Memory} (hv : c.Valid) (hm : m.wf) (hm' : m'.wf) {r : Nat} {v : Gray}
    (hrow : ∀ ch < c.nCh, readChannel c m' r ch = v)
    (hframe : ∀ a, (∀ i < c.rowBytes, a ≠ rowKey r i) → m'.read a = m.read a) : m' = patternRow c m r v := by
  refine eq_of_read_eq hm' (fillRow_wf hm _ _ _) fun a => ?_
  by_cases ha : ∃ i < c.rowBytes, a = rowKey r i
  · obtain ⟨i, hi, rfl⟩ := ha
    exact (patternBytes_of_readChannel hv hrow i hi).trans (memRead1_patternRow hv hm r v i hi).symm
  · have hout : ∀ i < c.rowBytes, a ≠ rowKey r i := fun i hi he => ha ⟨i, hi, he⟩
    exact (hframe a hout).trans (read_fillRow_of_ne hout m _).symm

end Sys2Proof.Machine
end

section
/-! PROOFS. The GrayscaleBuffer commands (R81 to R94): each is a range check and one store, or a read, of the buffer;
several in turn compose their stores. -/

namespace Sys2Proof.Machine

/-! ### Several stores in turn -/

section
variable {ι : Type} {s : State} {command : ι → Instr} {store : Memory → ι → Memory} {l : List ι}

/-- Each command of `l` completes, puts its store of the buffer in place, whatever the buffer holds, and lets `rvalid`
fall. -/
def EachStores (s : State) (command : ι → Instr) (store : Memory → ι → Memory) (l : List ι) : Prop :=
  ∀ i ∈ l, ∀ m b,
    exec (command i) { s with buf := m, rvalid := b } = .next { s with buf := store m i, rvalid := false }

/-- Such commands one after the other compose their stores. -/
theorem EachStores.execAll_eq (h : EachStores s command store l) (m : Memory) (b : Bool) :
    execAll (l.map command) { s with buf := m, rvalid := b } =
      some { s with buf := l.foldl store m, rvalid := b && l.isEmpty } := by
  induction l generalizing m b with
  | nil => simp [execAll]
  | cons i l ih =>
    have hrest := ih (fun j hj => h j (List.mem_cons_of_mem i hj)) (store m i) false
    simp only [List.map_cons, execAll, h i List.mem_cons_self, hrest]
    simp

/-- From the state itself, where there is a command at all. -/
theorem EachStores.execAll_eq_of_mem {i : ι} (h : EachStores s command store l) (hi : i ∈ l) :
    execAll (l.map command) s = some { s.dropRvalid with buf := l.foldl store s.buf } := by
  have hnonempty : l.isEmpty = false := List.isEmpty_eq_false_iff_exists_mem.mpr ⟨i, hi⟩
  refine (h.execAll_eq s.buf s.rvalid).trans ?_
  rw [hnonempty, Bool.and_false]
  rfl

end

/-! ### The channels of a row written one by one -/

/-- The stores of `SET`s of the channels `cs` of row `r` to the value `v`. -/
def writeChannels (c : Cfg) (r : Nat) (v : Gray) (m : Memory) (cs : List Nat) : Memory :=
  cs.foldl (fun m ch => writeChannel c m r ch v) m

@[simp] theorem writeChannels_nil (c : Cfg) (r : Nat) (v : Gray) (m : Memory) : writeChannels c r v m [] = m := rfl

@[simp] theorem writeChannels_cons (c : Cfg) (r : Nat) (v : Gray) (m : Memory) (ch : Nat) (cs : List Nat) :
    writeChannels c r v m (ch :: cs) = writeChannels c r v (writeChannel c m r ch v) cs := rfl

theorem writeChannels_wf {m : Memory} (hm : m.wf) (c : Cfg) (r : Nat) (v : Gray) (cs : List Nat) :
    (writeChannels c r v m cs).wf := by
  induction cs generalizing m with
  | nil => exact hm
  | cons ch cs ih => exact ih (writeChannel_wf hm c r ch v)

theorem read_writeChannels_of_ne {c : Cfg} {r a : Nat} {cs : List Nat} (hcs : ∀ ch ∈ cs, ch < c.nCh)
    (ha : ∀ i < c.rowBytes, a ≠ rowKey r i) (v : Gray) (m : Memory) : (writeChannels c r v m cs).read a = m.read a := by
  induction cs generalizing m with
  | nil => rfl
  | cons ch cs ih =>
    have hpos := bytePos_lt (hcs ch List.mem_cons_self)
    rw [writeChannels_cons, ih fun ch' h => hcs ch' (List.mem_cons_of_mem ch h)]
    exact read_writeChannel_of_ne (ha _ (Nat.lt_of_succ_lt hpos)) (ha _ hpos) m v

/-- Every channel written reads the value, whatever order and repeats: a later store of another channel leaves it
alone, and one of the same channel stores the same value (R91, R92). -/
theorem readChannel_writeChannels {c : Cfg} {m : Memory} (hv : c.Valid) (hm : m.wf) (r : Nat) {ch : Nat}
    {cs : List Nat} (hcs : ∀ ch ∈ cs, ch < c.nCh) (hch : ch < c.nCh) {v : Gray}
    (h : ch ∈ cs ∨ readChannel c m r ch = v) : readChannel c (writeChannels c r v m cs) r ch = v := by
  induction cs generalizing m with
  | nil => exact h.resolve_left List.not_mem_nil
  | cons ch' cs ih =>
    have hch' := hcs ch' List.mem_cons_self
    refine ih (writeChannel_wf hm c r ch' v) (fun x hx => hcs x (List.mem_cons_of_mem ch' hx)) ?_
    by_cases heq : ch = ch'
    · exact .inr (heq ▸ readChannel_writeChannel hv hm r hch v)
    · refine h.imp (fun hmem => (List.mem_cons.mp hmem).resolve_left heq) fun hread => ?_
      rw [readChannel_writeChannel_of_ne hv hm hch' hch v (by simp [heq]), hread]

/-- Writing exactly the channels of a row fills the row (R93). -/
theorem writeChannels_eq_patternRow {c : Cfg} {m : Memory} (hv : c.Valid) (hm : m.wf) (r : Nat) (v : Gray)
    {cs : List Nat} (hcs : ∀ ch, ch ∈ cs ↔ ch < c.nCh) : writeChannels c r v m cs = patternRow c m r v :=
  have hrange : ∀ ch ∈ cs, ch < c.nCh := fun ch => (hcs ch).mp
  eq_patternRow hv hm (writeChannels_wf hm c r v cs)
    (fun ch hch => readChannel_writeChannels hv hm r hrange hch (.inl ((hcs ch).mpr hch)))
    fun _ ha => read_writeChannels_of_ne hrange ha v m

/-- Settles O27: each `SET` completes, and their stores compose to the fill of `SET_ROW`. -/
theorem setRowEqualsSettingEveryChannel : Obligations.SetRowEqualsSettingEveryChannel := by
  intro s r v cs hv hm hr hcs
  have hzero : 0 ∈ cs := (hcs 0).mpr (by obtain ⟨⟨-, -, hchips, -⟩, -⟩ := hv; unfold Cfg.nCh; omega)
  have hset : EachStores s (fun c => .set r c v) (fun m c => writeChannel s.cfg m r c v) cs := fun c hc m b =>
    exec_set_next (s := { s with buf := m, rvalid := b }) hr ((hcs c).mp hc)
  have hfill := writeChannels_eq_patternRow hv hm r v hcs
  refine ⟨_, exec_setRow_next hr, (hset.execAll_eq_of_mem hzero).trans ?_⟩
  rw [← hfill]
  rfl

/-! ### The words and the checks -/

/-- `OP` selects the command, and the operands are the fields (R62). -/
theorem decodeWord_of_opField {w : Word} {op : BitVec 4} (h : opField w = op) :
    decodeWord w = commandOf op (rowField w) (channelField w) (valueField w) := by
  rw [decodeWord, h]

theorem exec_clearRow_fault {s : State} {r : Nat} (hr : s.cfg.rowCount ≤ r) :
    exec (.clearRow r) s = .fault (.preconditionViolation .row s.port.cmd s.tick) := by
  rw [exec, execClearRow, rangeFault_row none hr]

theorem exec_setRow_fault {s : State} {r : Nat} (v : Gray) (hr : s.cfg.rowCount ≤ r) :
    exec (.setRow r v) s = .fault (.preconditionViolation .row s.port.cmd s.tick) := by
  rw [exec, execSetRow, rangeFault_row none hr]

theorem exec_get_rowFault {s : State} {r : Nat} (c : Nat) (hr : s.cfg.rowCount ≤ r) :
    exec (.get r c) s = .fault (.preconditionViolation .row s.port.cmd s.tick) := by
  rw [exec, execGet, rangeFault_row (some c) hr]

theorem exec_get_channelFault {s : State} {r c : Nat} (hr : r < s.cfg.rowCount) (hc : s.cfg.nCh ≤ c) :
    exec (.get r c) s = .fault (.preconditionViolation .channel s.port.cmd s.tick) := by
  rw [exec, execGet, rangeFault_channel hr hc]

theorem exec_set_rowFault {s : State} {r : Nat} (c : Nat) (v : Gray) (hr : s.cfg.rowCount ≤ r) :
    exec (.set r c v) s = .fault (.preconditionViolation .row s.port.cmd s.tick) := by
  rw [exec, execSet, rangeFault_row (some c) hr]

theorem exec_set_channelFault {s : State} {r c : Nat} (v : Gray) (hr : r < s.cfg.rowCount) (hc : s.cfg.nCh ≤ c) :
    exec (.set r c v) s = .fault (.preconditionViolation .channel s.port.cmd s.tick) := by
  rw [exec, execSet, rangeFault_channel hr hc]

/-! ### Every row at once -/

theorem exec_setAll (v : Gray) (s : State) :
    exec (.setAll v) s = .next { s.dropRvalid with buf := patternAll s.cfg s.buf v } := rfl

/-- `CLEAR_ALL` is `SET_ALL` of the value 0 (R87). -/
theorem exec_clearAll_eq_setAll (s : State) : exec .clearAll s = exec (.setAll 0#12) s := by
  rw [exec_setAll, ← zeroAll_eq_patternAll]
  rfl

/-- `SET_ALL` fills the rows in turn. -/
theorem fillRows_eq_foldl (m : Memory) (f : Nat → Byte) (n k : Nat) :
    fillRows m f n k = (List.range k).foldl (fun m r => fillRow m r f n) m := by
  induction k with
  | zero => rfl
  | succ k ih => rw [List.range_succ, List.foldl_append, ← ih]; rfl

/-- Settles O18: `CLEAR_ALL` is the fill with the pattern of 0, which is the byte 0. -/
theorem clearAllZeroesEveryByte : Obligations.ClearAllZeroesEveryByte := by
  refine ⟨fun w => decodeWord_of_opField, fun s hv hm => ?_⟩
  rw [exec_clearAll_eq_setAll, exec_setAll]
  refine ⟨_, rfl, rfl, fun r hr i hi => ?_, fun a ha => read_fillRows_of_ne ha _ _, readChannel_patternAll hv hm 0#12⟩
  exact (memRead1_patternAll hv hm hr 0#12 i hi).trans (congrFun patternByte_zero i)

/-- Settles O19: `CLEAR_ROW` is the fill of its row with the pattern of 0, which is the byte 0. -/
theorem clearRowZeroesOneRow : Obligations.ClearRowZeroesOneRow := by
  refine ⟨fun w => decodeWord_of_opField, fun s r hv hm => ⟨exec_clearRow_fault, fun hr => ?_⟩⟩
  rw [exec_clearRow_next hr, zeroRow_eq_patternRow]
  refine ⟨_, rfl, rfl, fun i hi => ?_, fun a ha => read_fillRow_of_ne ha _ _, readChannel_patternRow hv hm r 0#12⟩
  exact (memRead1_patternRow hv hm r 0#12 i hi).trans (congrFun patternByte_zero i)

/-- Settles O22: the bytes of a filled row are the pattern's, and each pair of channels reads the value twice. -/
theorem setRowFillsTheRowWithThePattern : Obligations.SetRowFillsTheRowWithThePattern := by
  refine ⟨fun w => decodeWord_of_opField, fun s r v hv hm => ⟨exec_setRow_fault v, fun hr => ?_⟩⟩
  refine ⟨_, exec_setRow_next hr, rfl, fun k hk => ?_, fun a ha => read_fillRow_of_ne ha _ _,
    readChannel_patternRow hv hm r v⟩
  have hbyte := memRead1_patternRow hv hm r v
  unfold memRead1 at hbyte
  obtain ⟨h0, h1, h2⟩ := patternByte_pair_toNat v k
  rw [hbyte _ (by omega), hbyte _ (by omega), hbyte _ (by omega), shiftLeft_or_shiftRight_eq,
    Nat.shiftRight_eq_div_pow]
  exact ⟨h0, h1, h2⟩

/-- Settles O23: both commands put the pattern in every row, the fills of the rows in turn are `SET_ALL`'s, and
`CLEAR_ALL` is `SET_ALL` of 0. -/
theorem setAllAppliesSetRowToEveryRow : Obligations.SetAllAppliesSetRowToEveryRow := by
  refine ⟨fun w => decodeWord_of_opField, fun s v hv hm => ⟨_, exec_setAll v s, rfl, fun r hr => ?_,
    fun a ha => read_fillRows_of_ne ha _ _, (exec_clearAll_eq_setAll s).symm, ?_⟩⟩
  · refine ⟨_, exec_setRow_next hr, fun i hi => ?_⟩
    exact (memRead1_patternAll hv hm hr v i hi).trans (memRead1_patternRow hv hm r v i hi).symm
  · have hrows : 0 < s.cfg.rowCount := hv.1.1
    have hset : EachStores s (fun r => .setRow r v) (fun m r => patternRow s.cfg m r v) (List.range s.cfg.rowCount) :=
      fun r hr m b => exec_setRow_next (s := { s with buf := m, rvalid := b }) (List.mem_range.mp hr)
    rw [hset.execAll_eq_of_mem (List.mem_range.mpr hrows), patternAll, fillRows_eq_foldl]
    rfl

/-- Settles O24: `INIT` and `INITV` are the stores of `CLEAR_ALL` and `SET_ALL`. -/
theorem initialisationFillsTheBufferOnly : Obligations.InitialisationFillsTheBufferOnly := by
  refine ⟨fun w => decodeWord_of_opField, fun w => decodeWord_of_opField, fun s v hv hm => ⟨⟨rfl, ?_⟩, rfl, ?_⟩⟩
  · have hinit : exec .init s = exec (.setAll 0#12) s := exec_clearAll_eq_setAll s
    exact ⟨_, hinit, rfl, readChannel_patternAll hv hm 0#12, fun a ha => read_fillRows_of_ne ha _ _⟩
  · exact ⟨_, exec_setAll v s, rfl, readChannel_patternAll hv hm v, fun a ha => read_fillRows_of_ne ha _ _⟩

/-! ### One channel -/

/-- Settles O20: the window's arithmetic is the packing formula; steps 4 to 6 leave the read data alone, and a tick
that takes no `GET` keeps it (O34). -/
theorem getReadsTheChannelByThePackingFormulas : Obligations.GetReadsTheChannelByThePackingFormulas := by
  refine ⟨fun w => decodeWord_of_opField, fun s r c => ⟨exec_get_rowFault c, exec_get_channelFault, fun hr hc => ?_⟩,
    fun s r c hv hrst hf ht hcmd hr hc => ?_⟩
  · refine ⟨_, exec_get_next hr hc, rfl, ?_⟩
    rintro _ _ rfl rfl _ _ rfl rfl
    exact readChannel_toNat s.cfg s.buf r c
  · have hs : s.commandStep = .next { s with rdata := readChannel s.cfg s.buf r c, rvalid := true } := by
      rw [commandStep_taken ht, hcmd, exec_get_next hr hc]
    refine ⟨_, clockTick_next hv hrst hf hs, State.finishTick_rvalid _ _, State.finishTick_rdata _ _,
      State.finishTick_buf _ _, fun u hu hrst' hno => ?_⟩
    obtain ⟨hget, -, hkeep⟩ := (readDataFollowsTheAcceptedGet _ u hu).2 hrst'
    refine hkeep (Bool.eq_false_iff.mpr fun hvalid => ?_)
    obtain ⟨htaken, r', c', hcmd'⟩ := hget.mp hvalid
    exact hno r' c' htaken hcmd'

/-- Settles O21: the window's arithmetic is the packing formula, and a channel is its two bytes. -/
theorem setWritesTheChannelByThePackingFormulas : Obligations.SetWritesTheChannelByThePackingFormulas := by
  refine ⟨fun w => decodeWord_of_opField, fun s r c v hv hm =>
    ⟨exec_set_rowFault c v, exec_set_channelFault v, fun hr hc => ⟨_, exec_set_next hr hc, rfl, ?_⟩⟩⟩
  rintro _ _ rfl rfl
  refine ⟨?_, fun a ha ha' => read_writeChannel_of_ne ha ha' s.buf v⟩
  rintro _ _ rfl rfl
  exact memRead1_writeChannel_toNat hv hm r hc v

/-- Settles O25: the window gives back the value put into it. -/
theorem setThenGetReturnsTheValue : Obligations.SetThenGetReturnsTheValue := fun s r c v hv hm hr hc =>
  ⟨_, _, exec_set_next hr hc, exec_get_next (by exact hr) (by exact hc), readChannel_writeChannel hv hm r hc v, rfl⟩

/-- Settles O26: the bits of another channel are none of those written. -/
theorem setLeavesEveryOtherChannelAlone : Obligations.SetLeavesEveryOtherChannelAlone :=
  fun s r c r2 c2 v hv hm hr hc hr2 hc2 hne =>
    ⟨_, _, _, exec_set_next hr hc, exec_get_next (by exact hr2) (by exact hc2), exec_get_next hr2 hc2,
      readChannel_writeChannel_of_ne hv hm hc hc2 v hne⟩

/-- Settles O28: the row is filled with the pattern of 0. -/
theorem clearedRowReadsZero : Obligations.ClearedRowReadsZero := by
  intro s r c hv hm hr hc
  refine ⟨_, _, exec_clearRow_next hr, exec_get_next (by exact hr) (by exact hc), ?_⟩
  rw [zeroRow_eq_patternRow]
  exact readChannel_patternRow hv hm r 0#12 c hc

/-! ### `NOP` -/

section
variable {s : State}

theorem commandStep_nop (h : s.command = .nop) : s.commandStep = .next s.dropRvalid := by
  cases ht : s.cmdTaken with
  | true => rw [commandStep_taken ht, h]; rfl
  | false => exact commandStep_idle ht

theorem stopTaken_of_nop (h : s.command = .nop) : s.stopTaken = false := by
  rw [State.stopTaken, h]
  exact Bool.and_false _

/-- Taken or not, `NOP` leaves step 3 what no command leaves, and it is no `STOP` for steps 4 to 6 (R81). -/
theorem clockTick_nop {p : InPorts} (h : s.command = .nop) (hr : s.port.rst = false) (hp : p.rst = false)
    (hvalid : p.cmdValid = false) : clockTick s = clockTick (s.withPort p) := by
  by_cases hv : s.cfg.Valid
  case neg => rw [clockTick_of_not_valid hv, clockTick_of_not_valid (by exact hv)]; rfl
  cases hf : s.timingFault with
  | some k =>
    rw [clockTick_of_timingFault hv hr hf, clockTick_of_timingFault (by exact hv) hp (by exact hf)]
    rfl
  | none =>
    have hnot : (s.withPort p).cmdTaken = false := by
      rw [State.cmdTaken]
      exact congrArg (· && _) hvalid
    have hidle : (s.withPort p).commandStep = .next (s.dropRvalid.withPort p) := commandStep_idle hnot
    have hstop : (s.withPort p).stopTaken = s.stopTaken := by
      rw [stopTaken_of_nop h, State.stopTaken, hnot, Bool.false_and]
    rw [clockTick_next hv hr hf (commandStep_nop h), clockTick_next (by exact hv) hp (by exact hf) hidle,
      State.finishTick_withPort hstop]

end

/-- Settles O9: `NOP` lets `rvalid` fall, and a tick that presents it goes the way of one that presents nothing. -/
theorem nopTickIsAnEmptyTick : Obligations.NopTickIsAnEmptyTick :=
  ⟨fun _ => ⟨_, rfl, rfl⟩, fun s w w' h =>
    clockTick_nop (s := s.present w) (p := ⟨false, false, w'⟩) (decodeWord_of_opField h) rfl rfl rfl⟩

end Sys2Proof.Machine
end

section
/-! PROOFS. The pulse generator (R110 to R123): the lines as comparisons of the phases, what one tick does to `run` and
the phases, and the phases of a generator that runs on. -/

namespace Sys2Proof.Machine

/-! ### The lines (R114 to R118, R122) -/

theorem blank_iff (s : State) : s.blank = true ↔ s.blPhase < s.cfg.blankDuty := by simp [State.blank]

theorem xlat_iff (s : State) : s.xlat = true ↔ s.cfg.latchStart ≤ s.blPhase ∧ s.blPhase < s.cfg.latchEnd := by
  simp [State.xlat]

theorem gsclk_iff (s : State) : s.gsclk = true ↔ s.cfg.gsHalf ≤ s.gsPhase := by simp [State.gsclk]

/-- The blank window is not empty (R8). -/
theorem blank_of_phase_zero {s : State} (hv : s.cfg.Valid) (hp : s.blPhase = 0) : s.blank = true := by
  obtain ⟨-, ⟨-, hduty, -⟩, -⟩ := hv
  rw [blank_iff, hp]
  exact Nat.zero_lt_of_lt hduty

/-- The latch pulse starts after phase 0 (R8). -/
theorem xlat_of_phase_zero {s : State} (hv : s.cfg.Valid) (hp : s.blPhase = 0) : s.xlat = false := by
  obtain ⟨-, -, ⟨hlatch, -⟩, -⟩ := hv
  rw [← Bool.not_eq_true, xlat_iff]
  omega

/-- `GSCLK` is low in the first half of its period, which is not empty (R8). -/
theorem gsclk_of_phase_zero {s : State} (hv : s.cfg.Valid) (hp : s.gsPhase = 0) : s.gsclk = false := by
  obtain ⟨-, -, -, -, hgs, -⟩ := hv
  rw [← Bool.not_eq_true, gsclk_iff, Cfg.gsHalf]
  omega

theorem evtFire_of_stopped {s : State} (hr : s.run = false) : s.evtFire = false := by simp [State.evtFire, hr]

/-- The latch pulse ends no later than the blank window (R8). -/
theorem blank_of_xlat {s : State} (hv : s.cfg.Valid) (hx : s.xlat = true) : s.blank = true := by
  obtain ⟨-, -, ⟨-, hend⟩, -⟩ := hv
  rw [xlat_iff] at hx
  exact (blank_iff s).mpr (Nat.lt_of_lt_of_le hx.2 hend)

/-- One phase after a tick of the latch pulse either is in the pulse too or is the first one past it. -/
theorem xlat_next_phase {s : State} (hx : s.xlat = true) :
    ({ s with blPhase := s.blPhase + 1 } : State).xlat = true ∨ s.blPhase + 1 = s.cfg.latchEnd := by
  obtain ⟨hstart, hlt⟩ := (xlat_iff s).mp hx
  rcases Nat.lt_or_eq_of_le (Nat.succ_le_of_lt hlt) with hin | hpast
  · exact .inl ((xlat_iff _).mpr ⟨Nat.le_succ_of_le hstart, hin⟩)
  · exact .inr hpast

/-- Settles O38: the pulse starts after phase 0 and ends within the blank window, and phase 0 is the phase with `BLANK`
and no `XLAT`. -/
theorem latchPulseIsNestedInBlank : Obligations.LatchPulseIsNestedInBlank := by
  intro s hv
  have hx0 := xlat_of_phase_zero (s := { s with blPhase := 0 }) hv rfl
  have hb0 := blank_of_phase_zero (s := { s with blPhase := 0 }) hv rfl
  refine ⟨blank_of_xlat hv, fun hp => ⟨blank_of_phase_zero hv hp, xlat_of_phase_zero hv hp⟩, fun hb => ?_,
    ⟨0, (blank_iff _).mp hb0, hb0, hx0⟩, fun hx => ?_⟩
  · by_contra hx
    cases hb.symm.trans (blank_of_xlat hv (by simpa using hx))
  · obtain ⟨-, -, ⟨-, hend⟩, -⟩ := hv
    exact (xlat_next_phase hx).imp_right fun hpast => ⟨hpast, hend⟩

/-- Settles O39: the invariant puts both phases of a stopped machine at 0. -/
theorem stoppedLinesAreDark : Obligations.StoppedLinesAreDark := by
  intro s h hr
  obtain ⟨hbl, hgs, -, -⟩ := h.stopped hr
  exact ⟨hbl, hgs, blank_of_phase_zero h.valid hbl, xlat_of_phase_zero h.valid hbl, gsclk_of_phase_zero h.valid hgs,
    evtFire_of_stopped hr⟩

/-! ### `run` and the phases in one tick (R16, R111 to R113) -/

/-- `START` and `STOP` alone touch the generator. -/
theorem exec_keeps_generator {i : Instr} {s t : State} (h : exec i s = .next t) (hstart : i ≠ .start)
    (hstop : i ≠ .stop) : t.run = s.run ∧ t.blPhase = s.blPhase ∧ t.gsPhase = s.gsPhase := by
  rcases exec_cases h with ⟨-, rfl⟩ | ⟨-, rfl⟩ | ⟨r, -, -, rfl⟩ | ⟨r, c, -, -, -, rfl⟩ | ⟨r, c, v, -, -, -, rfl⟩ |
    ⟨r, v, -, -, rfl⟩ | ⟨v, -, rfl⟩ | ⟨hi, -⟩ | ⟨hi, -⟩ | ⟨-, rfl⟩ | ⟨-, rfl⟩
  case inr.inr.inr.inr.inr.inr.inr.inl => exact absurd hi hstart
  case inr.inr.inr.inr.inr.inr.inr.inr.inl => exact absurd hi hstop
  all_goals exact ⟨rfl, rfl, rfl⟩

theorem commandStep_start {s : State} (ht : s.cmdTaken = true) (hc : s.command = .start) :
    s.commandStep = .next { s.dropRvalid with run := true } := by
  rw [commandStep_taken ht, hc]
  rfl

theorem commandStep_stop {s : State} (ht : s.cmdTaken = true) (hc : s.command = .stop) :
    s.commandStep = .next { s.dropRvalid with run := false, blPhase := 0, gsPhase := 0, evtPend := false } := by
  rw [commandStep_taken ht, hc]
  rfl

/-- Step 3 of a tick that takes no `STOP`: the phases stay for step 6 to advance, and `run` is set by a taken `START`
only. -/
theorem commandStep_generator {s s1 : State} (hs : s.commandStep = .next s1) (hstop : s.stopTaken = false) :
    s1.blPhase = s.blPhase ∧ s1.gsPhase = s.gsPhase ∧
      (s1.run = true ↔ s.run = true ∨ s.cmdTaken = true ∧ s.command = .start) := by
  by_cases hstart : s.cmdTaken = true ∧ s.command = .start
  · obtain ⟨ht, hc⟩ := hstart
    rw [commandStep_start ht hc] at hs
    cases hs
    exact ⟨rfl, rfl, iff_of_true rfl (.inr ⟨ht, hc⟩)⟩
  · rw [or_iff_left hstart]
    rcases commandStep_cases hs with ⟨-, rfl⟩ | ⟨ht, he⟩
    · exact ⟨rfl, rfl, Iff.rfl⟩
    · have hnot : s.command ≠ .stop := fun hc => by
        cases hstop.symm.trans (s.stopTaken_iff.mpr ⟨ht, hc⟩)
      obtain ⟨hrun, hbl, hgs⟩ := exec_keeps_generator he (fun hc => hstart ⟨ht, hc⟩) hnot
      exact ⟨hbl, hgs, by rw [hrun]⟩

/-- Settles O37: a taken `STOP` clears `run` in step 3 and the phases in step 6; else step 3 leaves the phases and sets
`run` only by `START`, and step 6 goes by `run` as it was. -/
theorem phaseCountersAdvance : Obligations.PhaseCountersAdvance := by
  intro s t hstep hr
  obtain ⟨-, ⟨hrst, -⟩ | ⟨-, -, s1, hs, rfl⟩⟩ := clockTick_cases hstep
  · cases hr.symm.trans hrst
  have hcfg := commandStep_cfg hs
  refine ⟨fun hstop => ?_, fun hstop hrun => ?_, fun hstop hrun => ?_⟩
  · obtain ⟨ht, hc⟩ := s.stopTaken_iff.mp hstop
    rw [commandStep_stop ht hc] at hs
    cases hs
    simp [hstop]
  · obtain ⟨hbl, hgs, hset⟩ := commandStep_generator hs hstop
    simp [hstop, hrun, hbl, hgs, hcfg, hset]
  · obtain ⟨-, -, hset⟩ := commandStep_generator hs hstop
    simp [hstop, hrun, hset]

/-- Settles O35: step 3 sets `run`, no event is accepted in the tick, and the counters go by O37. -/
theorem startSetsRunOnly : Obligations.StartSetsRunOnly := by
  refine ⟨fun w h => decodeWord_of_opField h, fun s => ⟨_, rfl, rfl⟩, fun s hv hr hf ht hc => ?_⟩
  have hstep := clockTick_next hv hr hf (commandStep_start ht hc)
  have hstop : s.stopTaken = false := by simp [State.stopTaken, hc]
  obtain ⟨-, hrunning, hstopped⟩ := phaseCountersAdvance _ _ hstep hr
  refine ⟨_, hstep, by simp, by simp, by simp, by simp [State.not_accept_of_cmdTaken ht], fun hrun => ?_, fun hrun => ?_⟩
  · obtain ⟨hbl, hgs, -⟩ := hstopped hstop hrun
    exact ⟨hbl, hgs⟩
  · obtain ⟨hbl, hgs, -⟩ := hrunning hstop hrun
    exact ⟨hbl, hgs⟩

/-- Settles O36: a command is taken only by an idle sequencer with no event being accepted, so step 5 does nothing; steps
3 and 6 clear the generator, and at phase 0 the lines are at their stopped levels. -/
theorem stopClearsTheGenerator : Obligations.StopClearsTheGenerator := by
  refine ⟨fun w h => decodeWord_of_opField h, fun s => ⟨_, rfl, rfl⟩, fun s hv hr hf ht hc => ?_⟩
  obtain ⟨-, hidle, hacc⟩ := s.cmdTaken_iff.mp ht
  have hoff (hfire : s.evtFire = true) : s.evtEn = false := by
    by_contra hen
    have hon : s.accept = true := s.accept_iff.mpr ⟨by simp [State.evtReq, hfire], by simpa using hen, hidle⟩
    cases hacc.symm.trans hon
  have hstop : s.stopTaken = true := s.stopTaken_iff.mpr ⟨ht, hc⟩
  have hs := commandStep_stop ht hc
  have hstep := clockTick_next hv hr hf hs
  obtain ⟨hcleared, -, -⟩ := phaseCountersAdvance _ _ hstep hr
  obtain ⟨hbl, hgs, hrun⟩ := hcleared hstop
  obtain ⟨hcfg, -⟩ := configurationNeverChanges _ _ hstep
  have hv' := hcfg ▸ hv
  refine ⟨hidle, hacc, hoff, _, hstep, hrun, hbl, hgs, by simp [hstop], by simp, by simp, by simp [hacc],
    by simp [hacc], ?_, blank_of_phase_zero hv' hbl, xlat_of_phase_zero hv' hbl, gsclk_of_phase_zero hv' hgs,
    evtFire_of_stopped hrun⟩
  rw [State.finishTick_sin, hacc, State.sequence_idle (by exact hidle)]
  rfl

/-! ### A generator that runs on (R111, R123) -/

/-- Every completing tick, reset or not, brings the host's next input ports. -/
theorem step_port {s t : State} (h : step s = .next t) :
    t.port = s.script.headD InPorts.idle ∧ t.script = s.script.tail := by
  obtain ⟨-, ⟨-, rfl⟩ | ⟨-, -, s1, hs, rfl⟩⟩ := clockTick_cases h
  · exact ⟨rfl, rfl⟩
  · obtain ⟨-, -, -, -, -, -, -, -, -, -, hscript, -⟩ := commandStep_keeps hs
    rw [State.finishTick_port, State.finishTick_script, hscript]
    exact ⟨rfl, rfl⟩

theorem step_goesOn {s t : State} (h : step s = .next t) (hg : s.goesOn = true) : t.goesOn = true := by
  obtain ⟨hport, hscript⟩ := step_port h
  obtain ⟨-, hall⟩ := Bool.and_eq_true_iff.mp hg
  rw [State.goesOn, hport, hscript]
  cases hl : s.script with
  | nil => rfl
  | cons p l => rwa [hl] at hall

/-- Neither a reset nor a `STOP` comes in this tick. -/
theorem rst_stopTaken_of_goesOn {s : State} (hg : s.goesOn = true) : s.port.rst = false ∧ s.stopTaken = false := by
  obtain ⟨hnow, -⟩ := Bool.and_eq_true_iff.mp hg
  obtain ⟨hrst, hpresented⟩ := Bool.and_eq_true_iff.mp hnow
  refine ⟨by simpa using hrst, ?_⟩
  by_contra hstop
  obtain ⟨ht, hc⟩ := s.stopTaken_iff.mp (by simpa using hstop)
  obtain ⟨hvalid, -⟩ := s.cmdTaken_iff.mp ht
  have hword : decodeWord s.port.cmd = .stop := hc
  simp [hvalid, hword] at hpresented

theorem after_succ {n : Nat} {s t : State} (h : after (n + 1) s = some t) :
    ∃ u, step s = .next u ∧ after n u = some t := by
  rw [after] at h
  split at h
  · next u hu => exact ⟨u, hu, h⟩
  · cases h
  · cases h

/-- The phases of a running machine count the ticks, modulo their periods, as long as neither reset nor `STOP` comes. -/
theorem Inv.running_after {n : Nat} : ∀ {s t : State}, Inv s → s.run = true → s.goesOn = true →
    after n s = some t → t.cfg = s.cfg ∧ t.run = true ∧
      t.blPhase = (s.blPhase + n) % s.cfg.pBlank ∧ t.gsPhase = (s.gsPhase + n) % s.cfg.pGsclk := by
  induction n with
  | zero =>
    intro s t h hrun _ hafter
    cases hafter
    exact ⟨rfl, hrun, (Nat.mod_eq_of_lt h.blRange).symm, (Nat.mod_eq_of_lt h.gsRange).symm⟩
  | succ n ih =>
    intro s t h hrun hg hafter
    obtain ⟨u, hstep, hrest⟩ := after_succ hafter
    obtain ⟨hrst, hstop⟩ := rst_stopTaken_of_goesOn hg
    obtain ⟨-, hrunning, -⟩ := phaseCountersAdvance s u hstep hrst
    obtain ⟨hbl, hgs, hurun⟩ := hrunning hstop hrun
    obtain ⟨hucfg, -⟩ := configurationNeverChanges s u hstep
    obtain ⟨htcfg, htrun, htbl, htgs⟩ :=
      ih (everyStepKeepsTheInvariant s u h hstep) hurun (step_goesOn hstep hg) hrest
    refine ⟨htcfg.trans hucfg, htrun, ?_, ?_⟩
    · rw [htbl, hucfg, hbl, Nat.mod_add_mod, Nat.add_right_comm, Nat.add_assoc]
    · rw [htgs, hucfg, hgs, Nat.mod_add_mod, Nat.add_right_comm, Nat.add_assoc]

/-- Settles O40: the `START` tick leaves the machine running at phase 0 (O37), from where the phases count the ticks; the
lines and the event compare them. -/
theorem linesArePeriodicAfterStart : Obligations.LinesArePeriodicAfterStart := by
  intro s t n h hrun ht hc hg hafter
  obtain ⟨u, hstep, hrest⟩ := after_succ hafter
  obtain ⟨hrst, hstop⟩ := rst_stopTaken_of_goesOn hg
  obtain ⟨-, -, hstopped⟩ := phaseCountersAdvance s u hstep hrst
  obtain ⟨hubl, hugs, hset⟩ := hstopped hstop hrun
  obtain ⟨hucfg, -⟩ := configurationNeverChanges s u hstep
  obtain ⟨htcfg, htrun, hbl, hgs⟩ := (everyStepKeepsTheInvariant s u h hstep).running_after
    (hset.mpr ⟨ht, hc⟩) (step_goesOn hstep hg) hrest
  rw [hubl, hucfg, Nat.zero_add] at hbl
  rw [hugs, hucfg, Nat.zero_add] at hgs
  have hcfg : t.cfg = s.cfg := htcfg.trans hucfg
  rw [blank_iff, xlat_iff, evtFire_iff, gsclk_iff, hbl, hgs, hcfg]
  exact ⟨htrun, rfl, rfl, Iff.rfl, Iff.rfl, and_iff_right htrun, Iff.rfl⟩

end Sys2Proof.Machine
end

section
/-! PROOFS. The RowShiftProtocol in one tick (R131 to R142): the commands `EVT_OFF` and `EVT_ON`, the bookkeeping of
events, the acceptance of one, and each third of a bit cell. -/

namespace Sys2Proof.Machine

/-! ### Switching events off and on (R131, R132) -/

theorem commandStep_evtOff {s : State} (ht : s.cmdTaken = true) (hc : s.command = .evtOff) :
    s.commandStep = .next { s.dropRvalid with evtEn := false } := by
  rw [commandStep_taken ht, hc]
  rfl

theorem commandStep_evtOn {s : State} (ht : s.cmdTaken = true) (hc : s.command = .evtOn) :
    s.commandStep = .next { s.dropRvalid with evtEn := true } := by
  rw [commandStep_taken ht, hc]
  rfl

/-- An event that fires and is not accepted by a sequencer at rest finds events off (R31, R134). -/
theorem evtFire_of_not_accept {s : State} (ha : s.accept = false) (hi : s.seqState = .idle) (hen : s.evtEn = true) :
    s.evtFire = false := by
  rw [← Bool.not_eq_true]
  intro hfire
  have hreq : s.evtReq = true := by simp [State.evtReq, hfire]
  cases ha.symm.trans (s.accept_iff.mpr ⟨hreq, hen, hi⟩)

/-- Settles O41: the command is taken by a sequencer at rest that accepts nothing, so steps 4 and 5 keep the request and
the rest. -/
theorem eventsOffHoldsEventsBack : Obligations.EventsOffHoldsEventsBack := by
  refine ⟨fun w h => decodeWord_of_opField h, fun s => ⟨_, rfl, rfl⟩, fun s hv hr hf ht hc => ?_⟩
  obtain ⟨-, hidle, hacc⟩ := s.cmdTaken_iff.mp ht
  have hs := commandStep_evtOff ht hc
  have hstop : s.stopTaken = false := by simp [State.stopTaken, hc]
  exact ⟨hacc, evtFire_of_not_accept hacc hidle, _, clockTick_next hv hr hf hs, by simp, by simp,
    finishTick_idle hs hacc hidle, fun _ => by simp [hstop, hacc, State.evtReq]⟩

/-- Settles O42: the tick leaves the sequencer at rest and events on, and then a request is all that acceptance needs. -/
theorem eventsOnAcceptsADeferredEvent : Obligations.EventsOnAcceptsADeferredEvent := by
  refine ⟨fun w h => decodeWord_of_opField h, fun s => ⟨_, rfl, rfl⟩, fun s hv hr hf ht hc => ?_⟩
  obtain ⟨-, hidle, hacc⟩ := s.cmdTaken_iff.mp ht
  have hs := commandStep_evtOn ht hc
  have hon : (s.finishTick { s.dropRvalid with evtEn := true }).evtEn = true := State.finishTick_evtEn _ _
  refine ⟨_, clockTick_next hv hr hf hs, hon, fun hreq => ?_⟩
  exact (State.accept_iff _).mpr ⟨by simpa [State.evtReq] using hreq, hon, finishTick_idle hs hacc hidle⟩

/-! ### Bookkeeping (R133) -/

/-- An event fires after the latch pulse of its period (R8). -/
theorem xlat_of_evtFire {s : State} (hv : s.cfg.Valid) (hfire : s.evtFire = true) : s.xlat = false := by
  obtain ⟨-, hphase⟩ := (evtFire_iff s).mp hfire
  obtain ⟨-, -, -, ⟨hevent, -⟩, -⟩ := hv
  rw [← Bool.not_eq_true, xlat_iff, hphase]
  omega

/-- Settles O43: step 4 books the request, and an event never fires during a latch pulse, so that a second one is a
`MissedBoundary` and no `TornLatch`. -/
theorem unacceptedEventIsRemembered : Obligations.UnacceptedEventIsRemembered := by
  refine ⟨fun s t hstep hr => ?_, fun s hv hr hfire hpend => ?_⟩
  · obtain ⟨-, ⟨hr', -⟩ | ⟨-, -, s1, -, rfl⟩⟩ := clockTick_cases hstep
    · cases hr.symm.trans hr'
    · exact State.finishTick_evtPend s s1
  · refine clockTick_of_timingFault hv hr ?_
    simp [State.timingFault, xlat_of_evtFire hv hfire, hfire, hpend]

/-! ### Acceptance (R135, R136) -/

/-- A tick that accepts an event takes no command. -/
theorem step_of_accept {s : State} (hv : s.cfg.Valid) (hr : s.port.rst = false) (hf : s.timingFault = none)
    (ha : s.accept = true) : step s = .next (s.finishTick s.dropRvalid) :=
  clockTick_next hv hr hf (commandStep_idle (State.not_taken_of_accept ha))

/-- A tick that accepts no event keeps both row pointers (R135, R140). -/
theorem finishTick_rows {s s1 : State} (hs : s.commandStep = .next s1) (ha : s.accept = false) :
    (s.finishTick s1).nextRow = s.nextRow ∧ (s.finishTick s1).rowaddr = s.rowaddr := by
  obtain ⟨-, -, hnext, hrow, -⟩ := commandStep_keeps hs
  simp [ha, hnext, hrow]

/-- The only row of a machine with one row is its own successor. -/
theorem nextRow_of_single_row {s t : State} (hstep : step s = .next t) (hone : s.cfg.rowCount = 1)
    (hzero : s.nextRow = 0) : t.nextRow = 0 := by
  obtain ⟨-, ⟨-, rfl⟩ | ⟨-, -, s1, hs, rfl⟩⟩ := clockTick_cases hstep
  · rfl
  · obtain ⟨hcfg, -, hnext, -⟩ := commandStep_keeps hs
    rw [State.finishTick_nextRow, hcfg, hone, hnext, hzero, Nat.mod_one, ite_self]

/-- Settles O44: step 5 is the acceptance alone; every other tick but a reset keeps both row pointers. -/
theorem acceptedEventSelectsTheNextRow : Obligations.AcceptedEventSelectsTheNextRow := by
  refine ⟨fun s hv hr hf ha => ?_, fun s t hstep hr ha => ?_, fun s t hstep hr => ?_,
    fun s t => nextRow_of_single_row⟩
  · have hstop : s.stopTaken = false := by simp [State.stopTaken, State.not_taken_of_accept ha]
    refine ⟨by simp [State.cmdReady, ha], _, step_of_accept hv hr hf ha, ?_⟩
    simp [ha, hstop, State.sequence_accept, memBit, memRead1]
  · obtain ⟨-, ⟨hr', -⟩ | ⟨-, -, s1, hs, rfl⟩⟩ := clockTick_cases hstep
    · cases hr.symm.trans hr'
    · exact finishTick_rows hs ha
  · obtain ⟨-, ⟨-, rfl⟩ | ⟨hr', -⟩⟩ := clockTick_cases hstep
    · rfl
    · cases hr.symm.trans hr'

/-! ### A bit cell (R137 to R139) -/

theorem not_accept_of_busy {s : State} (hb : s.seqState = .busy) : s.accept = false := by
  simp [State.accept, State.busy, hb]

theorem step_of_busy {s : State} (hv : s.cfg.Valid) (hr : s.port.rst = false) (hf : s.timingFault = none)
    (hb : s.seqState = .busy) : step s = .next (s.finishTick s.dropRvalid) :=
  clockTick_next hv hr hf (commandStep_idle (State.not_taken_of_busy hb))

/-- Settles O45: in the first two thirds of a cell the tick of the shift sets the clock line and moves to the next
third. -/
theorem bitCellPulsesTheClock : Obligations.BitCellPulsesTheClock := by
  intro s hv hr hf hb
  have hstep := step_of_busy hv hr hf hb
  have ha := not_accept_of_busy hb
  have hq : s.dropRvalid.sequence false = s.dropRvalid.shiftTick := State.sequence_busy hb
  refine ⟨fun hsub => ⟨_, hstep, ?_⟩, fun hsub => ⟨_, hstep, ?_⟩⟩
  · rw [State.shiftTick_setUp (by exact hsub)] at hq
    simp [ha, hq, hb]
  · rw [State.shiftTick_high (by exact hsub)] at hq
    simp [ha, hq, hb]

theorem atLastBit_iff {s : State} (hv : s.cfg.Valid) :
    s.atLastBit = true ↔ s.bitIdx.val = 0 ∧ s.byteIdx = s.cfg.rowBytes - 1 := by
  obtain ⟨⟨-, -, hchips, -⟩, -⟩ := hv
  have hrow : 0 < s.cfg.rowBytes := Nat.mul_pos (by decide) hchips
  simp only [State.atLastBit, Bool.and_eq_true, decide_eq_true_eq]
  omega

/-- Inside a byte the next bit is the next lower one. -/
theorem nextBit_of_pos {s : State} (h : 0 < s.bitIdx.val) : s.nextBit.bitIdx.val = s.bitIdx.val - 1 ∧
    s.nextBit.byteIdx = s.byteIdx ∧ s.nextBit.sin = memBit s.buf s.rowaddr s.byteIdx (s.bitIdx.val - 1) := by
  rw [State.nextBit, if_pos h]
  exact ⟨rfl, rfl, rfl⟩

/-- After bit 0 comes bit 7 of the next byte. -/
theorem nextBit_of_zero {s : State} (h : s.bitIdx.val = 0) : s.nextBit.byteIdx = s.byteIdx + 1 ∧
    s.nextBit.bitIdx.val = 7 ∧ s.nextBit.sin = memBit s.buf s.rowaddr (s.byteIdx + 1) 7 := by
  rw [State.nextBit, if_neg h.not_gt]
  exact ⟨rfl, rfl, rfl⟩

/-- Settles O46: the row's last bit excluded, the third tick of a cell moves to the next bit. -/
theorem sequencerAdvancesToTheNextBit : Obligations.SequencerAdvancesToTheNextBit := by
  intro s hv hr hf hb hsub hnot
  have ha := not_accept_of_busy hb
  have hlast : s.dropRvalid.atLastBit = false := by rwa [← Bool.not_eq_true, atLastBit_iff (by exact hv)]
  have hq : s.dropRvalid.sequence false = s.dropRvalid.nextBit :=
    (State.sequence_busy (by exact hb)).trans (State.shiftTick_low_next (by exact hsub) hlast)
  refine ⟨_, step_of_busy hv hr hf hb, by simp [ha, hq, hb], by simp [ha, hq], by simp [ha, hq], by simp [ha], by simp,
    ?_⟩
  rw [State.finishTick_bitIdx, State.finishTick_byteIdx, State.finishTick_sin, ha, hq]
  exact ⟨nextBit_of_pos (s := s.dropRvalid), nextBit_of_zero (s := s.dropRvalid)⟩

theorem cmdReady_of_idle {s : State} (hi : s.seqState = .idle) : s.cmdReady = true ↔ s.accept = false := by
  simp [State.cmdReady, State.busy, hi]

/-- Settles O47: the last tick of the last bit ends the shift; no event is accepted in it, so a request is booked, and
acceptance in the next tick wants no more than that and events on. -/
theorem sequencerEndsAfterTheLastBit : Obligations.SequencerEndsAfterTheLastBit := by
  intro s hv hr hf hb hsub hbit hbyte
  have ha := not_accept_of_busy hb
  have hlast : s.dropRvalid.atLastBit = true := (atLastBit_iff (by exact hv)).mpr ⟨hbit, hbyte⟩
  have hq : s.dropRvalid.sequence false = s.dropRvalid.endShift :=
    (State.sequence_busy (by exact hb)).trans (State.shiftTick_low_last (by exact hsub) hlast)
  have hidle : (s.finishTick s.dropRvalid).seqState = .idle := by simp [ha, hq]
  have hstop : s.stopTaken = false := by simp [State.stopTaken, State.not_taken_of_busy hb]
  refine ⟨ha, _, step_of_busy hv hr hf hb, hidle, by simp [ha, hq], by simp [ha, hq], by simp [ha, hq], by simp [ha, hq],
    by simp [ha, hq], by simp [ha], cmdReady_of_idle hidle, fun hreq hen => ?_⟩
  have hbooked : (s.finishTick s.dropRvalid).evtPend = true := by simp [hstop, hreq, ha]
  exact (State.accept_iff _).mpr ⟨Bool.or_eq_true_iff.mpr (.inl hbooked), by simp [hen], hidle⟩

/-! ### Idle levels (R142) -/

/-- Settles O48: without acceptance step 5 does nothing at rest, and no command touches the lines. -/
theorem idleLinesHoldTheirLevels : Obligations.IdleLinesHoldTheirLevels := by
  intro s t h hi hstep hr ha
  obtain ⟨-, ⟨hr', -⟩ | ⟨-, -, s1, hs, rfl⟩⟩ := clockTick_cases hstep
  · cases hr.symm.trans hr'
  have hidle := finishTick_idle hs ha hi
  obtain ⟨-, hi1, -, -, -, -, -, hsin, -⟩ := commandStep_keeps hs
  obtain ⟨-, -, -, hclk⟩ := h.atRest hi
  obtain ⟨-, -, -, hclk'⟩ := (h.finishTick hs).atRest hidle
  refine ⟨hclk, hclk', ?_, (finishTick_rows hs ha).2, hidle⟩
  rw [State.finishTick_sin, ha, State.sequence_idle (hi1.trans hi), hsin]

end Sys2Proof.Machine
end

section
/-! PROOFS. One execution (R143 to R146): a shift accepted at most `SLACK` ticks late lies between this latch pulse and
the next one, so each of its ticks completes; its position counts them and says which bit is on the wire. -/

namespace Sys2Proof.Machine

/-! ### The host's inputs of the coming ticks -/

/-- A condition that holds of the inputs in this tick, of every one the script holds and of an idle host holds of the
next tick's as well. -/
theorem step_inputs {p : InPorts → Bool} {s t : State} (hidle : p InPorts.idle = true) (hstep : step s = .next t)
    (h : (p s.port && s.script.all p) = true) : (p t.port && t.script.all p) = true := by
  obtain ⟨hport, hscript⟩ := step_port hstep
  obtain ⟨-, hall⟩ := Bool.and_eq_true_iff.mp h
  rw [hport, hscript]
  cases hl : s.script with
  | nil => exact Bool.and_eq_true_iff.mpr ⟨hidle, rfl⟩
  | cons q l => rwa [hl] at hall

theorem step_noReset {s t : State} (hstep : step s = .next t) (h : s.noReset = true) : t.noReset = true :=
  step_inputs (p := fun q => !q.rst) rfl hstep h

theorem rst_of_noReset {s : State} (h : s.noReset = true) : s.port.rst = false := by
  obtain ⟨hrst, -⟩ := Bool.and_eq_true_iff.mp h
  simpa using hrst

/-! ### Several ticks -/

theorem after_step {s t : State} (h : step s = .next t) (n : Nat) : after (n + 1) s = after n t := by
  rw [after, h]

/-- The ticks of a run, cut in two. -/
theorem after_add {m : Nat} {s u : State} (h : after m s = some u) (n : Nat) : after (m + n) s = after n u := by
  induction m generalizing s with
  | zero => cases h; rw [Nat.zero_add]
  | succ m ih =>
    obtain ⟨t, hstep, hrest⟩ := after_succ h
    rw [Nat.add_right_comm, after_step hstep, ih hrest]

/-! ### The phase during a shift (R145, R146) -/

/-- Whatever the delay, up to `SLACK`: the phase has moved on over the end of the period at most once, and the shift ends
before the next latch pulse begins (R8 f, R186). -/
theorem State.lateBy.phase {s : State} {d : Nat} (hl : s.lateBy d) (h : Inv s) (hd : d ≤ s.cfg.slack) :
    s.cfg.eventPhase + d + 1 + s.shiftPos < s.cfg.pBlank + s.cfg.latchStart ∧
    (s.blPhase = s.cfg.eventPhase + d + 1 + s.shiftPos ∨
      s.blPhase + s.cfg.pBlank = s.cfg.eventPhase + d + 1 + s.shiftPos) := by
  have hpos := shiftPos_lt h.byteRange
  obtain ⟨-, ⟨-, -, hblank⟩, ⟨-, hend⟩, ⟨-, hevent⟩, -, hshift⟩ := h.valid
  unfold Cfg.latchEnd at hend
  unfold Cfg.slack at hd
  have hlt : s.cfg.eventPhase + d + 1 + s.shiftPos < s.cfg.pBlank + s.cfg.latchStart := by omega
  refine ⟨hlt, ?_⟩
  rw [hl]
  rcases Nat.lt_or_ge (s.cfg.eventPhase + d + 1 + s.shiftPos) s.cfg.pBlank with hin | hover
  · exact .inl (Nat.mod_eq_of_lt hin)
  · rw [Nat.mod_eq_sub_mod hover, Nat.mod_eq_of_lt (by omega)]
    omega

/-- No fault condition of R163 holds during a shift that is not too late (R186). -/
theorem State.lateBy.timingFault_none {s : State} {d : Nat} (hl : s.lateBy d) (h : Inv s) (hd : d ≤ s.cfg.slack) :
    s.timingFault = none := by
  obtain ⟨hlt, hphase⟩ := hl.phase h hd
  obtain ⟨-, -, -, ⟨hevent, -⟩, -⟩ := h.valid
  have hxlat : s.xlat = false := by
    rw [← Bool.not_eq_true, xlat_iff]
    omega
  have hfire : s.evtFire = false := by
    unfold Cfg.latchEnd at hevent
    rw [← Bool.not_eq_true, evtFire_iff]
    omega
  simp [State.timingFault, hxlat, hfire]

/-! ### The ticks of a shift -/

/-- The tick at position `p` of a shift of row `r` of the buffer `m`, accepted `d` ticks after its event fired, with no
reset to come. -/
structure Shifting (c : Cfg) (m : Memory) (r d p : Nat) (s : State) : Prop where
  inv : Inv s
  unreset : s.noReset = true
  busy : s.seqState = .busy
  late : s.lateBy d
  position : s.shiftPos = p
  sameCfg : s.cfg = c
  sameBuf : s.buf = m
  row : s.rowaddr = r

namespace Shifting

variable {c : Cfg} {m : Memory} {r d p : Nat} {s : State}

theorem step_eq (h : Shifting c m r d p s) (hd : d ≤ c.slack) : step s = .next (s.finishTick s.dropRvalid) :=
  step_of_busy h.inv.valid (rst_of_noReset h.unreset)
    (h.late.timingFault_none h.inv (hd.trans_eq (congrArg Cfg.slack h.sameCfg.symm))) h.busy

theorem inv_next (h : Shifting c m r d p s) : Inv (s.finishTick s.dropRvalid) :=
  h.inv.finishTick (commandStep_idle (State.not_taken_of_busy h.busy))

theorem rowaddr_next (h : Shifting c m r d p s) : (s.finishTick s.dropRvalid).rowaddr = r := by
  simp [not_accept_of_busy h.busy, h.row]

/-- A tick of a shift before its last one leads to the next position. -/
theorem next (h : Shifting c m r d p s) (hd : d ≤ c.slack) (hp : p + 1 < c.shiftTicks) :
    Shifting c m r d (p + 1) (s.finishTick s.dropRvalid) := by
  have hlate : s.blPhase = (s.cfg.eventPhase + d + 1 + s.shiftPos) % s.cfg.pBlank := h.late
  rcases finishTick_busy h.busy with ⟨hlast, -⟩ | ⟨hbusy, hpos⟩
  · rw [h.position, h.sameCfg] at hlast
    omega
  · exact {
      inv := h.inv_next
      unreset := step_noReset (h.step_eq hd) h.unreset
      busy := hbusy
      late := by
        rw [State.lateBy, finishTick_blPhase_of_not_taken (State.not_taken_of_busy h.busy) (h.inv.run_of_busy h.busy),
          hlate, Nat.mod_add_mod, hpos]
        simp [Nat.add_assoc]
      position := by rw [hpos, h.position]
      sameCfg := by simp [h.sameCfg]
      sameBuf := by simp [h.sameBuf]
      row := h.rowaddr_next }

/-- After the last position there is no further one. -/
theorem idle_next (h : Shifting c m r d p s) (hp : p + 1 = c.shiftTicks) :
    (s.finishTick s.dropRvalid).seqState = .idle := by
  rcases finishTick_busy h.busy with ⟨-, hidle⟩ | ⟨-, hpos⟩
  · exact hidle
  · have hlt := shiftPos_lt h.inv_next.byteRange
    rw [hpos, h.position, State.finishTick_cfg, State.dropRvalid_cfg, h.sameCfg] at hlt
    omega

/-- A shift goes through all its positions. -/
theorem reaches (h : Shifting c m r d p s) (hd : d ≤ c.slack) {q : Nat} (hq : p + q < c.shiftTicks) :
    ∃ t, after q s = some t ∧ Shifting c m r d (p + q) t := by
  induction q with
  | zero => exact ⟨s, rfl, h⟩
  | succ q ih =>
    obtain ⟨t, hafter, ht⟩ := ih (Nat.lt_of_succ_lt hq)
    exact ⟨_, (after_add hafter 1).trans (after_step (ht.step_eq hd) 0), ht.next hd hq⟩

/-- The position is the bit of the row, bytes ascending and each from bit 7 down, and the third of the cell (R24), which
the lines follow (R137). -/
theorem wire {n k : Nat} (h : Shifting c m r d (3 * n + k) s) (hk : k < 3) :
    s.sin = (m.read (rowKey r (n / 8))).getLsbD (7 - n % 8) ∧ (s.sclk = true ↔ k = 1) := by
  have hpos := h.position
  unfold State.shiftPos at hpos
  have hbit := s.bitIdx.isLt
  have hsub : s.sub.num < 3 := by cases s.sub <;> decide
  have hhigh : s.sub = .high ↔ s.sub.num = 1 := by cases s.sub <;> decide
  obtain ⟨hbyte, hlow, hthird⟩ : s.byteIdx = n / 8 ∧ s.bitIdx.val = 7 - n % 8 ∧ s.sub.num = k := by omega
  refine ⟨?_, (h.inv.clockLine h.busy).trans (by rw [hhigh, hthird])⟩
  rw [h.inv.dataLine h.busy, h.sameBuf, h.row, hbyte, hlow]
  rfl

end Shifting

theorem Inv.run_of_accept {s : State} (h : Inv s) (ha : s.accept = true) : s.run = true := by
  by_contra hstopped
  obtain ⟨hreq, -⟩ := s.accept_iff.mp ha
  cases (h.evtReq_of_stopped (by simpa using hstopped)).symm.trans hreq

/-- The tick after acceptance is at position 0 (R135, R136). -/
theorem AcceptsAfter.shifting {s : State} {d : Nat} (h : AcceptsAfter s d) :
    ∃ t, step s = .next t ∧ Shifting s.cfg s.buf s.nextRow d 0 t := by
  have hn := State.not_taken_of_accept h.accepts
  have hstep := step_of_accept h.inv.valid (rst_of_noReset h.unreset) h.sound h.accepts
  obtain ⟨hbusy, hpos⟩ := finishTick_accept s s.dropRvalid h.accepts
  exact ⟨_, hstep, {
    inv := h.inv.finishTick (commandStep_idle hn)
    unreset := step_noReset hstep h.unreset
    busy := hbusy
    late := by
      rw [State.lateBy, finishTick_blPhase_of_not_taken hn (h.inv.run_of_accept h.accepts), h.delay, Nat.mod_add_mod, hpos]
      simp
    position := hpos
    sameCfg := by simp
    sameBuf := by simp
    row := by simp [h.accepts] }⟩

/-- All positions of the shift of an event accepted not too late. -/
theorem AcceptsAfter.reaches {s : State} {d p : Nat} (h : AcceptsAfter s d) (hd : d ≤ s.cfg.slack)
    (hp : p < s.cfg.shiftTicks) : ∃ t, after (1 + p) s = some t ∧ Shifting s.cfg s.buf s.nextRow d p t := by
  obtain ⟨u, hstep, hu⟩ := h.shifting
  obtain ⟨t, hafter, ht⟩ := hu.reaches (q := p) hd (by omega)
  rw [Nat.zero_add] at ht
  exact ⟨t, by rw [Nat.add_comm, after_step hstep, hafter], ht⟩

/-- Settles O50: the shift passes each position in a busy tick with the buffer as it was, and the tick at the last one
ends it. -/
theorem shiftPutsTheWholeRowOnTheWire : Obligations.ShiftPutsTheWholeRowOnTheWire := by
  intro s d h hd
  refine ⟨fun n hn k hk => ?_, ?_⟩
  · obtain ⟨t, hafter, ht⟩ := h.reaches hd (p := 3 * n + k) (by unfold Cfg.shiftTicks ticksPerBit; omega)
    obtain ⟨hsin, hsclk⟩ := ht.wire hk
    exact ⟨t, by rw [Nat.add_assoc, hafter], ht.busy, ht.row, hsin, hsclk, ht.sameBuf,
      by simp [State.cmdReady, State.busy, ht.busy]⟩
  · have hticks : s.cfg.shiftTicks - 1 + 1 = s.cfg.shiftTicks :=
      Nat.sub_add_cancel (Nat.zero_lt_of_lt (shiftPos_lt h.inv.byteRange))
    obtain ⟨t, hafter, ht⟩ := h.reaches hd (p := s.cfg.shiftTicks - 1) (by omega)
    refine ⟨_, ?_, ht.idle_next hticks, by simp [ht.sameBuf], ht.rowaddr_next⟩
    rw [← hticks, ← Nat.add_assoc, after_add hafter, after_step (ht.step_eq hd)]
    rfl

end Sys2Proof.Machine
end

section
/-! PROOFS. The steady state (R146 to R148): under calm inputs a machine on time completes every tick and stays on time;
after a `START` its events come one period apart, and each one selects the row after the last one's. -/

namespace Sys2Proof.Machine

/-! ### Calm inputs -/

theorem step_calm {s t : State} (hstep : step s = .next t) (h : s.calm = true) : t.calm = true := by
  obtain ⟨hcfg, -⟩ := configurationNeverChanges s t hstep
  rw [State.calm, hcfg]
  exact step_inputs rfl hstep h

/-- A condition on every tick's inputs implies a weaker one. -/
theorem inputs_mono {p q : InPorts → Bool} (hpq : ∀ x, p x = true → q x = true) {s : State}
    (h : (p s.port && s.script.all p) = true) : (q s.port && s.script.all q) = true := by
  obtain ⟨hport, hscript⟩ := Bool.and_eq_true_iff.mp h
  rw [List.all_eq_true] at hscript
  exact Bool.and_eq_true_iff.mpr ⟨hpq _ hport, List.all_eq_true.mpr fun x hx => hpq x (hscript x hx)⟩

theorem InPorts.goesOn_of_calm {c : Cfg} {p : InPorts} (h : p.calm c = true) : p.goesOn = true := by
  obtain ⟨hrst, hcommand⟩ := Bool.and_eq_true_iff.mp h
  refine Bool.and_eq_true_iff.mpr ⟨hrst, ?_⟩
  by_contra hstop
  obtain ⟨hvalid, hword⟩ : p.cmdValid = true ∧ decodeWord p.cmd = .stop := by simpa using hstop
  simp [hvalid, hword] at hcommand

theorem State.goesOn_of_calm {s : State} (h : s.calm = true) : s.goesOn = true :=
  inputs_mono (p := InPorts.calm s.cfg) (fun _ => InPorts.goesOn_of_calm) h

theorem State.noReset_of_goesOn {s : State} (h : s.goesOn = true) : s.noReset = true :=
  inputs_mono (p := InPorts.goesOn) (q := fun p => !p.rst) (fun _ hp => (Bool.and_eq_true_iff.mp hp).1) h

/-- A calm command completes and does not switch events off. -/
theorem exec_of_calm {s : State} (h : s.port.calm s.cfg = true) (hvalid : s.port.cmdValid = true) :
    (∃ s1, exec s.command s = .next s1) ∧ s.command ≠ .evtOff := by
  obtain ⟨-, hcommand⟩ := Bool.and_eq_true_iff.mp h
  rw [hvalid, Bool.not_true, Bool.false_or] at hcommand
  unfold State.command
  cases hi : decodeWord s.port.cmd <;> rw [hi] at hcommand
  case clearRow r => exact ⟨⟨_, exec_clearRow_next (of_decide_eq_true hcommand)⟩, nofun⟩
  case setRow r v => exact ⟨⟨_, exec_setRow_next (of_decide_eq_true hcommand)⟩, nofun⟩
  case get r ch =>
    obtain ⟨hr, hch⟩ := Bool.and_eq_true_iff.mp hcommand
    exact ⟨⟨_, exec_get_next (of_decide_eq_true hr) (of_decide_eq_true hch)⟩, nofun⟩
  case set r ch v =>
    obtain ⟨hr, hch⟩ := Bool.and_eq_true_iff.mp hcommand
    exact ⟨⟨_, exec_set_next (of_decide_eq_true hr) (of_decide_eq_true hch)⟩, nofun⟩
  case stop | evtOff | reservedD | reservedE | reservedF => cases hcommand
  all_goals exact ⟨⟨_, rfl⟩, nofun⟩

/-- Under calm inputs step 3 completes and leaves events on. -/
theorem commandStep_of_calm {s : State} (h : s.port.calm s.cfg = true) (hen : s.evtEn = true) :
    ∃ s1, s.commandStep = .next s1 ∧ s1.evtEn = true := by
  cases ht : s.cmdTaken with
  | false => exact ⟨_, commandStep_idle ht, hen⟩
  | true =>
    obtain ⟨hvalid, -⟩ := s.cmdTaken_iff.mp ht
    obtain ⟨⟨s1, hexec⟩, hoff⟩ := exec_of_calm h hvalid
    exact ⟨s1, (commandStep_taken ht).trans hexec, (exec_evtEn hexec).mpr (.inr ⟨hen, hoff⟩)⟩

/-! ### A machine on time under calm inputs (R147) -/

theorem OnTime.step_calm {s : State} (h : Inv s) (ho : OnTime s) (hc : s.calm = true) :
    ∃ t, step s = .next t ∧ Inv t ∧ OnTime t := by
  obtain ⟨hport, -⟩ := Bool.and_eq_true_iff.mp hc
  obtain ⟨s1, hs, hen⟩ := commandStep_of_calm hport ho.enabled
  have hrst := rst_of_noReset (State.noReset_of_goesOn (State.goesOn_of_calm hc))
  exact ⟨_, clockTick_next h.valid hrst (ho.timingFault_none h) hs, h.finishTick hs, ho.finishTick h hs hen⟩

/-- Any number of ticks completes under calm inputs, which stay calm, and leads to a machine on time again. -/
theorem OnTime.after_calm {s : State} (h : Inv s) (ho : OnTime s) (hc : s.calm = true) (n : Nat) :
    ∃ t, after n s = some t ∧ Inv t ∧ OnTime t ∧ t.calm = true ∧ t.cfg = s.cfg := by
  induction n with
  | zero => exact ⟨s, rfl, h, ho, hc, rfl⟩
  | succ n ih =>
    obtain ⟨u, hafter, hu, huo, huc, hucfg⟩ := ih
    obtain ⟨t, hstep, ht, hto⟩ := huo.step_calm hu huc
    obtain ⟨htcfg, -⟩ := configurationNeverChanges u t hstep
    exact ⟨t, (after_add hafter 1).trans (after_step hstep 0), ht, hto, Machine.step_calm hstep huc, htcfg.trans hucfg⟩

/-- Settles O52: a calm command completes and leaves events on, and a machine on time meets no fault condition. -/
theorem calmMachineNeverFaults : Obligations.CalmMachineNeverFaults := by
  intro s n h ho hc
  obtain ⟨t, hafter, ht, hto, -⟩ := ho.after_calm h hc n
  exact ⟨t, hafter, ht, hto⟩

/-! ### The ticks of the events (R118, R146) -/

/-- The tick in which event `k` fires, counted from the tick that takes the `START`. -/
def eventTick (c : Cfg) (k : Nat) : Nat := 1 + c.eventPhase + k * c.pBlank

theorem eventTick_succ (c : Cfg) (k : Nat) : eventTick c (k + 1) = eventTick c k + c.pBlank := by
  rw [eventTick, eventTick, Nat.succ_mul, ← Nat.add_assoc]

/-- Before event 0 and between two events lies none. -/
theorem eventTick_ne_of_lt {c : Cfg} {n : Nat} (h : n < eventTick c 0) (k : Nat) : n ≠ eventTick c k := by
  unfold eventTick at *
  omega

theorem eventTick_ne_between {c : Cfg} {i : Nat} (hi : 0 < i) (hip : i < c.pBlank) (k k' : Nat) :
    eventTick c k + i ≠ eventTick c k' := by
  intro heq
  have hsum : k * c.pBlank + i = k' * c.pBlank := by unfold eventTick at heq; omega
  have hmod := congrArg (· % c.pBlank) hsum
  simp [Nat.mod_eq_of_lt hip] at hmod
  omega

/-- A phase counter that starts at 0 is at the event's phase one period after the other. -/
theorem mod_eq_eventPhase_iff {c : Cfg} (hv : c.Valid) (n : Nat) :
    n % c.pBlank = c.eventPhase ↔ ∃ k, n + 1 = eventTick c k := by
  obtain ⟨-, ⟨-, -, hblank⟩, -, ⟨-, hevent⟩, -⟩ := hv
  refine ⟨fun h => ⟨n / c.pBlank, ?_⟩, fun ⟨k, hk⟩ => ?_⟩
  · have hdiv := Nat.mod_add_div' n c.pBlank
    rw [h] at hdiv
    unfold eventTick
    omega
  · obtain rfl : n = c.eventPhase + k * c.pBlank := by unfold eventTick at hk; omega
    rw [Nat.add_mul_mod_self_right, Nat.mod_eq_of_lt (by omega)]

/-! ### The row pointers between events -/

/-- Ticks that accept no event keep both row pointers. -/
theorem rows_after {n : Nat} {s t : State} (hreset : s.noReset = true) (hafter : after n s = some t)
    (hacc : ∀ i < n, ∀ u, after i s = some u → u.accept = false) : t.nextRow = s.nextRow ∧ t.rowaddr = s.rowaddr := by
  induction n generalizing s with
  | zero => cases hafter; exact ⟨rfl, rfl⟩
  | succ n ih =>
    obtain ⟨u, hstep, hrest⟩ := after_succ hafter
    obtain ⟨-, hkept, -⟩ := acceptedEventSelectsTheNextRow
    obtain ⟨hnext, hrow⟩ := hkept s u hstep (rst_of_noReset hreset) (hacc 0 n.succ_pos s rfl)
    obtain ⟨hnext', hrow'⟩ := ih (step_noReset hstep hreset) hrest fun i hi v hv =>
      hacc (i + 1) (Nat.succ_lt_succ hi) v (by rw [after_step hstep, hv])
    exact ⟨hnext'.trans hnext, hrow'.trans hrow⟩

/-! ### After a `START` -/

namespace Starting

variable {s t : State} {n : Nat}

theorem onTime (h : Starting s) : OnTime s where
  enabled := h.enabled
  nonePending := by
    obtain ⟨-, -, hpend, -⟩ := h.inv.stopped h.stopped
    exact hpend
  punctual := fun hb => by
    obtain ⟨-, -, -, hi⟩ := h.inv.stopped h.stopped
    cases hb.symm.trans hi

/-- What O52 says of every tick of a given run. -/
theorem reached (h : Starting s) (hc : s.calm = true) (hafter : after n s = some t) :
    Inv t ∧ OnTime t ∧ t.calm = true ∧ t.cfg = s.cfg := by
  obtain ⟨u, hu, hprops⟩ := h.onTime.after_calm h.inv hc n
  cases hafter.symm.trans hu
  exact hprops

/-- An event is accepted exactly in the ticks in which one fires. -/
theorem accept_iff (h : Starting s) (hc : s.calm = true) (hafter : after n s = some t) :
    t.accept = true ↔ ∃ k, n = eventTick s.cfg k := by
  cases n with
  | zero =>
    cases hafter
    refine iff_of_false (by simp [State.not_accept_of_cmdTaken h.taken]) fun ⟨k, hk⟩ => ?_
    unfold eventTick at hk
    omega
  | succ n =>
    obtain ⟨ht, hto, -⟩ := h.reached hc hafter
    obtain ⟨-, -, -, -, -, hfire, -⟩ := linesArePeriodicAfterStart s t n h.inv h.stopped h.taken h.isStart
      (State.goesOn_of_calm hc) hafter
    rw [hto.accept_eq_evtFire ht, hfire, mod_eq_eventPhase_iff h.inv.valid]

/-- From the tick after event `k`, if it is accepted with that row next, up to the next event, `ROWADDR` shows the row of
event `k` and the one after it is next. -/
theorem rows_between (h : Starting s) (hc : s.calm = true) {k j : Nat} {e : State}
    (he : after (eventTick s.cfg k) s = some e) (hk : e.nextRow = k % s.cfg.rowCount) (hj : 1 ≤ j)
    (hjp : j ≤ s.cfg.pBlank) (hafter : after (eventTick s.cfg k + j) s = some t) :
    t.nextRow = (k + 1) % s.cfg.rowCount ∧ t.rowaddr = k % s.cfg.rowCount := by
  obtain ⟨i, rfl⟩ := Nat.exists_eq_add_of_le' hj
  obtain ⟨hinv, hto, hcalm, hcfg⟩ := h.reached hc he
  have hreset := State.noReset_of_goesOn (State.goesOn_of_calm hcalm)
  obtain ⟨haccepted, -⟩ := acceptedEventSelectsTheNextRow
  obtain ⟨-, u, hstep, hurow, hunext, -⟩ := haccepted e hinv.valid (rst_of_noReset hreset) (hto.timingFault_none hinv)
    ((h.accept_iff hc he).mpr ⟨k, rfl⟩)
  rw [after_add he, after_step hstep] at hafter
  obtain ⟨hnext, hrow⟩ := rows_after (step_noReset hstep hreset) hafter fun l hl v hv => by
    have hv' : after (eventTick s.cfg k + (l + 1)) s = some v := by rw [after_add he, after_step hstep, hv]
    rw [← Bool.not_eq_true, h.accept_iff hc hv']
    exact fun ⟨k', hk'⟩ => eventTick_ne_between l.succ_pos (by omega) k k' hk'
  exact ⟨by rw [hnext, hunext, hk, hcfg, Nat.mod_add_mod], by rw [hrow, hurow, hk]⟩

/-- Event `k` finds row `k mod ROW_COUNT` next: event 0 finds the first row, and each event leaves the row after its own
to the one that follows (R146, R147). -/
theorem event_row (h : Starting s) (hc : s.calm = true) (k : Nat) :
    ∃ e, after (eventTick s.cfg k) s = some e ∧ e.nextRow = k % s.cfg.rowCount := by
  induction k with
  | zero =>
    obtain ⟨e, he, -⟩ := h.onTime.after_calm h.inv hc (eventTick s.cfg 0)
    obtain ⟨hnext, -⟩ := rows_after (State.noReset_of_goesOn (State.goesOn_of_calm hc)) he fun i hi u hu => by
      rw [← Bool.not_eq_true, h.accept_iff hc hu]
      exact fun ⟨k, hk⟩ => eventTick_ne_of_lt hi k hk
    exact ⟨e, he, by rw [hnext, h.first, Nat.zero_mod]⟩
  | succ k ih =>
    obtain ⟨e, he, hk⟩ := ih
    obtain ⟨t, ht, -⟩ := h.onTime.after_calm h.inv hc (eventTick s.cfg (k + 1))
    refine ⟨t, ht, ?_⟩
    rw [eventTick_succ] at ht
    obtain ⟨hnext, -⟩ := h.rows_between hc he hk (Nat.zero_lt_of_lt h.inv.blRange) le_rfl ht
    exact hnext

/-- An event is accepted in the tick it fires, with no reset to come: the hypothesis of O50 with no delay. -/
theorem acceptsAfter (h : Starting s) (hc : s.calm = true) (ht : after n s = some t) (ha : t.accept = true) :
    AcceptsAfter t 0 := by
  obtain ⟨hinv, hto, hcalm, -⟩ := h.reached hc ht
  obtain ⟨-, hphase⟩ := (evtFire_iff t).mp ((hto.accept_eq_evtFire hinv).symm.trans ha)
  exact {
    inv := hinv
    accepts := ha
    sound := hto.timingFault_none hinv
    unreset := State.noReset_of_goesOn (State.goesOn_of_calm hcalm)
    delay := by rw [Nat.add_zero, ← hphase, Nat.mod_eq_of_lt hinv.blRange] }

/-- The `SHIFT_TICKS` ticks after event `k` are busy with its row (R143). -/
theorem busy_window (h : Starting s) (hc : s.calm = true) (k : Nat) {j : Nat} (hj : 1 ≤ j)
    (hjs : j ≤ s.cfg.shiftTicks) : ∃ t, after (eventTick s.cfg k + j) s = some t ∧
      t.seqState = .busy ∧ t.rowaddr = k % s.cfg.rowCount := by
  obtain ⟨e, he, hk⟩ := h.event_row hc k
  obtain ⟨-, -, -, hcfg⟩ := h.reached hc he
  have haccepts := h.acceptsAfter hc he ((h.accept_iff hc he).mpr ⟨k, rfl⟩)
  obtain ⟨t, hafter, ht⟩ := haccepts.reaches (Nat.zero_le _) (p := j - 1) (by rw [hcfg]; omega)
  rw [Nat.add_sub_cancel' hj] at hafter
  exact ⟨t, by rw [after_add he, hafter], ht.busy, ht.row.trans hk⟩

/-- The latch pulse of period `k + 1` comes before its event, when the shift of event `k` has ended (R146). -/
theorem latch_window (h : Starting s) (hc : s.calm = true) (k : Nat) {j : Nat} (hj : j < s.cfg.latchDuty) :
    ∃ t, after (1 + (k + 1) * s.cfg.pBlank + s.cfg.latchStart + j) s = some t ∧ t.xlat = true ∧
      t.seqState = .idle ∧ t.rowaddr = k % s.cfg.rowCount := by
  obtain ⟨t, hafter, hinv, hto, -⟩ := h.onTime.after_calm h.inv hc (1 + (k + 1) * s.cfg.pBlank + s.cfg.latchStart + j)
  obtain ⟨-, ⟨-, -, hblank⟩, -, ⟨hevent, hduty⟩, -⟩ := h.inv.valid
  unfold Cfg.latchEnd at hevent
  have hxlat : t.xlat = true := by
    have hstart : 1 + (k + 1) * s.cfg.pBlank + s.cfg.latchStart + j =
        (k + 1) * s.cfg.pBlank + (s.cfg.latchStart + j) + 1 := by omega
    obtain ⟨-, -, -, -, hpulse, -⟩ := linesArePeriodicAfterStart s t _ h.inv h.stopped h.taken h.isStart
      (State.goesOn_of_calm hc) (hstart ▸ hafter)
    rw [hpulse, Nat.mul_add_mod', Nat.mod_eq_of_lt (by omega)]
    omega
  have hidle : t.seqState = .idle := by
    cases hb : t.seqState with
    | idle => rfl
    | busy => cases hxlat.symm.trans (hto.xlat_of_busy hinv hb)
  have hsplit : 1 + (k + 1) * s.cfg.pBlank + s.cfg.latchStart + j =
      eventTick s.cfg k + (s.cfg.pBlank + s.cfg.latchStart + j - s.cfg.eventPhase) := by
    rw [eventTick, Nat.succ_mul]
    omega
  obtain ⟨e, he, hk⟩ := h.event_row hc k
  obtain ⟨-, hrow⟩ := h.rows_between hc he hk (by omega) (by omega) (hsplit ▸ hafter)
  exact ⟨t, hafter, hxlat, hidle, hrow⟩

end Starting

/-- Settles O53: events are accepted when they fire; O50 gives the busy ticks and the pulse of the next period comes
between two events. -/
theorem steadyStateShiftsAndLatchesEveryRow : Obligations.SteadyStateShiftsAndLatchesEveryRow := fun _ h hc =>
  ⟨fun _ _ => h.accept_iff hc, fun k =>
    ⟨h.event_row hc k, fun _ => h.busy_window hc k, fun _ => h.latch_window hc k⟩⟩

/-- Settles O54: an event is accepted exactly at the ticks of the events, and event `k` selects row `r` exactly if `k` is
`r` modulo `ROW_COUNT`. -/
theorem noRowIsStarved : Obligations.NoRowIsStarved := by
  intro s r n h hc hr
  refine ⟨fun ⟨t, ht, ha, hrow⟩ => ?_, fun ⟨j, hn⟩ => ?_⟩
  · obtain ⟨k, rfl⟩ := (h.accept_iff hc ht).mp ha
    obtain ⟨e, he, hk⟩ := h.event_row hc k
    cases ht.symm.trans he
    exact ⟨k / s.cfg.rowCount, by rw [← hrow, hk, Nat.mod_add_div']; rfl⟩
  · obtain ⟨e, he, hk⟩ := h.event_row hc (r + j * s.cfg.rowCount)
    rw [Nat.add_mul_mod_self_right, Nat.mod_eq_of_lt hr] at hk
    obtain rfl : n = eventTick s.cfg (r + j * s.cfg.rowCount) := hn
    exact ⟨e, he, (h.accept_iff hc he).mpr ⟨_, rfl⟩, hk⟩

end Sys2Proof.Machine
end

section
/-! PROOFS. The faults (R160 to R165): which condition of R163 a tick finds, what a command can raise, and that a tick
raises just these two, the condition first (R167). -/

namespace Sys2Proof.Machine

/-! ### The fault conditions (R163) -/

theorem timingFault_tornLatch_iff (s : State) :
    s.timingFault = some .tornLatch ↔ s.xlat = true ∧ s.seqState = .busy := by
  rw [← s.busy_iff, ← Bool.and_eq_true_iff, State.timingFault]
  split
  · next htorn => exact iff_of_true rfl htorn
  · next htorn => exact iff_of_false (by split <;> nofun) htorn

/-- An event never fires during a latch pulse, so no `TornLatch` hides a `MissedBoundary`. -/
theorem timingFault_missedBoundary_iff {s : State} (hv : s.cfg.Valid) :
    s.timingFault = some .missedBoundary ↔ s.evtFire = true ∧ (s.evtPend = true ∨ s.seqState = .busy) := by
  rw [← s.busy_iff, State.timingFault]
  cases hfire : s.evtFire with
  | true => cases s.evtPend <;> simp [xlat_of_evtFire hv hfire]
  | false => simp

/-! ### What a command raises (R161, R162) -/

theorem rangeFault_eq_row_iff {s : State} {r : Nat} {c? : Option Nat} :
    s.rangeFault r c? = some (.preconditionViolation .row s.port.cmd s.tick) ↔ s.cfg.rowCount ≤ r := by
  refine ⟨fun h => ?_, rangeFault_row c?⟩
  by_contra hr
  unfold State.rangeFault at h
  rw [if_neg hr] at h
  split at h
  · cases h
  · split at h <;> cases h

theorem rangeFault_eq_channel_iff {s : State} {r : Nat} {c? : Option Nat} :
    s.rangeFault r c? = some (.preconditionViolation .channel s.port.cmd s.tick) ↔
      r < s.cfg.rowCount ∧ ∃ c, c? = some c ∧ s.cfg.nCh ≤ c := by
  refine ⟨fun h => ?_, fun ⟨hr, c, hc?, hc⟩ => hc? ▸ rangeFault_channel hr hc⟩
  unfold State.rangeFault at h
  split at h
  · cases h
  · next hr =>
    split at h
    · cases h
    · next c =>
      split at h
      · next hc => exact ⟨Nat.lt_of_not_le hr, c, rfl, hc⟩
      · cases h

/-- The four commands with an index, and no other, check the row (R80). -/
theorem exec_eq_rowFault_iff {i : Instr} {s : State} :
    (∃ r, s.cfg.rowCount ≤ r ∧
      (i = .clearRow r ∨ (∃ c, i = .get r c) ∨ (∃ c v, i = .set r c v) ∨ ∃ v, i = .setRow r v)) ↔
    exec i s = .fault (.preconditionViolation .row s.port.cmd s.tick) := by
  constructor
  · rintro ⟨r, hr, rfl | ⟨c, rfl⟩ | ⟨c, v, rfl⟩ | ⟨v, rfl⟩⟩
    · exact exec_clearRow_fault hr
    · exact exec_get_rowFault c hr
    · exact exec_set_rowFault c v hr
    · exact exec_setRow_fault v hr
  · intro h
    obtain ⟨r, hi, hf⟩ | ⟨r, c, hi, hf⟩ | ⟨-, hf⟩ | ⟨-, hf⟩ | ⟨-, hf⟩ := exec_fault_cases h
    · exact ⟨r, rangeFault_eq_row_iff.mp hf, hi.imp_right fun hset => .inr (.inr hset)⟩
    · exact ⟨r, rangeFault_eq_row_iff.mp hf, .inr (hi.imp (⟨c, ·⟩) fun ⟨v, hset⟩ => .inl ⟨c, v, hset⟩)⟩
    · cases hf
    · cases hf
    · cases hf

/-- `GET` and `SET`, and no other command, check the channel, behind the row (R80). -/
theorem exec_eq_channelFault_iff {i : Instr} {s : State} :
    (∃ r c, r < s.cfg.rowCount ∧ s.cfg.nCh ≤ c ∧ (i = .get r c ∨ ∃ v, i = .set r c v)) ↔
    exec i s = .fault (.preconditionViolation .channel s.port.cmd s.tick) := by
  constructor
  · rintro ⟨r, c, hr, hc, rfl | ⟨v, rfl⟩⟩
    · exact exec_get_channelFault hr hc
    · exact exec_set_channelFault v hr hc
  · intro h
    obtain ⟨r, -, hf⟩ | ⟨r, c, hi, hf⟩ | ⟨-, hf⟩ | ⟨-, hf⟩ | ⟨-, hf⟩ := exec_fault_cases h
    · obtain ⟨-, c, hnone, -⟩ := rangeFault_eq_channel_iff.mp hf
      cases hnone
    · obtain ⟨hr, _, ⟨⟩, hc⟩ := rangeFault_eq_channel_iff.mp hf
      exact ⟨r, c, hr, hc, hi⟩
    · cases hf
    · cases hf
    · cases hf

/-- The record of a command's fault: the word on the port and the tick, and for a reserved command its opcode too. -/
theorem exec_fault_record {i : Instr} {s : State} {f : Fault} (h : exec i s = .fault f) :
    (∃ k, f = .preconditionViolation k s.port.cmd s.tick) ∨ f = .reservedCommand (opcodeOf i) s.port.cmd s.tick := by
  obtain ⟨r, -, hf⟩ | ⟨r, c, -, hf⟩ | ⟨rfl, hf⟩ | ⟨rfl, hf⟩ | ⟨rfl, hf⟩ := exec_fault_cases h
  · exact .inl (rangeFault_eq_some hf)
  · exact .inl (rangeFault_eq_some hf)
  · exact .inr hf
  · exact .inr hf
  · exact .inr hf

/-- The three opcodes from 0xD up are the reserved ones (R65). -/
theorem exec_commandOf_reserved {op : BitVec 4} (h : 0xD ≤ op.toNat) (r c : Nat) (v : Gray) (s : State) :
    exec (commandOf op r c v) s = .fault (.reservedCommand op s.port.cmd s.tick) := by
  obtain rfl | rfl | rfl : op = 0xD#4 ∨ op = 0xE#4 ∨ op = 0xF#4 := by bv_omega
  · rfl
  · rfl
  · rfl

/-! ### What a tick raises (R160, R167) -/

/-- The command of the tick is the one whose opcode is on the port. -/
theorem opcodeOf_command (s : State) : opcodeOf s.command = opField s.port.cmd :=
  (opField_of_decodeWord rfl).symm

/-- A `TimingViolation` is the fault condition of the tick, since no command raises one. -/
theorem step_eq_timingViolation_iff {s : State} (hv : s.cfg.Valid) (hr : s.port.rst = false) (k : TimingKind)
    (n : Nat) : step s = .fault (.timingViolation k n) ↔ n = s.tick ∧ s.timingFault = some k := by
  refine ⟨fun h => ?_, fun ⟨hn, hf⟩ => hn ▸ clockTick_of_timingFault hv hr hf⟩
  obtain ⟨-, -, ⟨k', hf, heq⟩ | ⟨-, -, hexec⟩⟩ := clockTick_fault h
  · cases heq
    exact ⟨rfl, hf⟩
  · obtain ⟨_, hrec⟩ | hrec := exec_fault_record hexec
    · cases hrec
    · cases hrec

/-- Without a fault condition a tick that takes a command raises what the command raises. -/
theorem step_eq_fault_iff_exec {s : State} (hv : s.cfg.Valid) (hr : s.port.rst = false) (hf : s.timingFault = none)
    (ht : s.cmdTaken = true) {f : Fault} : step s = .fault f ↔ exec s.command s = .fault f := by
  refine ⟨fun h => ?_, fun h => clockTick_of_commandFault hv hr hf ((commandStep_taken ht).trans h)⟩
  obtain ⟨-, -, ⟨k, hk, -⟩ | ⟨-, -, hexec⟩⟩ := clockTick_fault h
  · cases hf.symm.trans hk
  · exact hexec

/-! ### The statements -/

/-- Settles O12: a tick raises its fault condition and no other `TimingViolation`, and the two conditions are those of
R163. -/
theorem timingViolationsAreRaisedExactly : Obligations.TimingViolationsAreRaisedExactly := by
  intro s hv hr n
  rw [step_eq_timingViolation_iff hv hr, step_eq_timingViolation_iff hv hr, timingFault_tornLatch_iff,
    timingFault_missedBoundary_iff hv, evtFire_iff, and_assoc]
  exact ⟨Iff.rfl, Iff.rfl⟩

/-- Settles O32: the tick raises what its command raises, and the range check decides that. -/
theorem outOfRangeIndexesAreRaised : Obligations.OutOfRangeIndexesAreRaised := fun _ hv hr hf ht =>
  ⟨exec_eq_rowFault_iff.trans (step_eq_fault_iff_exec hv hr hf ht).symm,
    exec_eq_channelFault_iff.trans (step_eq_fault_iff_exec hv hr hf ht).symm⟩

/-- Settles O33: the tick raises what its command raises, and an opcode from 0xD up selects a reserved command. -/
theorem reservedOpcodesAreRaised : Obligations.ReservedOpcodesAreRaised :=
  ⟨fun _ => ⟨rfl, rfl, rfl⟩, fun s hv hr hf ht hop =>
    (step_eq_fault_iff_exec hv hr hf ht).mpr (exec_commandOf_reserved hop _ _ _ s)⟩

/-- Settles O56: a tick's fault is its fault condition or its command's, and a run stops at a fault. -/
theorem everyFaultRecordNamesItsTick : Obligations.EveryFaultRecordNamesItsTick := by
  intro s f h
  refine ⟨?_, fun n => by rw [after, h]⟩
  obtain ⟨-, -, htiming | ⟨hf, ht, hexec⟩⟩ := clockTick_fault h
  · exact .inl htiming
  · exact .inr ⟨hf, ht, opcodeOf_command s ▸ exec_fault_record hexec⟩

end Sys2Proof.Machine
end

section
/-! PROOFS. The exact bound on a late shift (R186): one that is still running when the phase comes round to `LATCH_START`
is torn (R163), so its run ends there. -/

namespace Sys2Proof.Machine

/-- A completing tick of a shift found no fault condition and took no command (R30, R31). -/
theorem finishTick_of_step_busy {s t : State} (hstep : step s = .next t) (hr : s.port.rst = false) (hb : s.seqState = .busy) :
    s.timingFault = none ∧ t = s.finishTick s.dropRvalid := by
  obtain ⟨-, ⟨hrst, -⟩ | ⟨-, hf, s1, hs, rfl⟩⟩ := clockTick_cases hstep
  · cases hr.symm.trans hrst
  · exact ⟨hf, by rw [commandStep_of_busy hs hb]⟩

/-- The latch pulse is up at its first phase, since it is not empty (R8, R115). -/
theorem xlat_of_phase_latchStart {s : State} (hv : s.cfg.Valid) (hp : s.blPhase = s.cfg.latchStart) : s.xlat = true := by
  obtain ⟨-, ⟨hduty, -⟩, -⟩ := hv
  rw [xlat_iff, hp, Cfg.latchEnd]
  omega

/-- A shift with the next latch pulse `n` ticks ahead, before its own end, completes no more than these `n` ticks: the
tick in which the pulse begins is a `TornLatch` (R163). -/
theorem Inv.ticks_le_of_latch_ahead {m n : Nat} {s t : State} (h : Inv s) (hreset : s.noReset = true)
    (hb : s.seqState = .busy) (hphase : (s.blPhase + n) % s.cfg.pBlank = s.cfg.latchStart)
    (hpos : s.shiftPos + n < s.cfg.shiftTicks) (hafter : after m s = some t) : m ≤ n := by
  induction m generalizing n s with
  | zero => exact Nat.zero_le _
  | succ m ih =>
    obtain ⟨u, hstep, hrest⟩ := after_succ hafter
    obtain ⟨hfault, rfl⟩ := finishTick_of_step_busy hstep (rst_of_noReset hreset) hb
    cases n with
    | zero =>
      rw [Nat.add_zero, Nat.mod_eq_of_lt h.blRange] at hphase
      have htorn := (timingFault_tornLatch_iff s).mpr ⟨xlat_of_phase_latchStart h.valid hphase, hb⟩
      cases hfault.symm.trans htorn
    | succ n =>
      have hn := State.not_taken_of_busy hb
      rcases finishTick_busy hb with ⟨hlast, -⟩ | ⟨hbusy, hnext⟩
      · omega
      · refine Nat.succ_le_succ (ih (h.finishTick (commandStep_idle hn)) (step_noReset hstep hreset) hbusy ?_ ?_ hrest)
        · rw [finishTick_blPhase_of_not_taken hn (h.run_of_busy hb), State.finishTick_cfg, State.dropRvalid_cfg,
            Nat.mod_add_mod, Nat.add_assoc, Nat.add_comm 1 n, hphase]
        · rw [hnext, State.finishTick_cfg, State.dropRvalid_cfg]
          omega

/-- An event accepted later than `SLACK`, but before the next latch pulse, is torn by that pulse: its run completes no
more ticks than there are before it (R186). -/
theorem AcceptsAfter.ticks_le_of_late {s t : State} {d m : Nat} (h : AcceptsAfter s d) (hd : s.cfg.slack < d)
    (hlatch : s.cfg.eventPhase + d < s.cfg.pBlank + s.cfg.latchStart) (hafter : after m s = some t) :
    m ≤ s.cfg.pBlank + s.cfg.latchStart - (s.cfg.eventPhase + d) := by
  obtain ⟨n, hn⟩ := Nat.exists_eq_add_of_lt hlatch
  cases m with
  | zero => exact Nat.zero_le _
  | succ m =>
    obtain ⟨u, hstep, hrest⟩ := after_succ hafter
    obtain ⟨u', hstep', hu⟩ := h.shifting
    cases hstep.symm.trans hstep'
    obtain ⟨-, ⟨-, -, hblank⟩, ⟨-, hend⟩, -⟩ := h.inv.valid
    unfold Cfg.latchEnd at hend
    have hphase : (u.blPhase + n) % s.cfg.pBlank = s.cfg.latchStart := by
      have hlate : u.blPhase = (u.cfg.eventPhase + d + 1 + u.shiftPos) % u.cfg.pBlank := hu.late
      rw [hlate, hu.sameCfg, hu.position, Nat.mod_add_mod, Nat.add_zero, Nat.add_right_comm, ← hn, Nat.add_mod_left,
        Nat.mod_eq_of_lt (by omega)]
    have hrunning : n < s.cfg.shiftTicks := by
      unfold Cfg.slack at hd
      omega
    have hle := hu.inv.ticks_le_of_latch_ahead hu.unreset hu.busy (hu.sameCfg ▸ hphase)
      (by rwa [hu.position, hu.sameCfg, Nat.zero_add]) hrest
    omega

/-- Settles O51: O50 gives the ticks of a shift accepted in time, and a later one meets the latch pulse before its end. -/
theorem slackIsTheExactBound : Obligations.SlackIsTheExactBound := by
  intro s d h hlatch
  refine ⟨fun hcompletes => ?_, fun hd => ?_⟩
  · by_contra hlate
    obtain ⟨t, hafter⟩ := Option.isSome_iff_exists.mp hcompletes
    have hle := h.ticks_le_of_late (Nat.lt_of_not_le hlate) hlatch hafter
    unfold Cfg.slack at hlate
    omega
  · obtain ⟨-, t, hafter, -⟩ := shiftPutsTheWholeRowOnTheWire s d h hd
    rw [hafter]
    rfl

end Sys2Proof.Machine
end
